-- ==== Sys2Proof/Word.lean ====
section
/-! DEFINITION. The widths of the block's values (spec/00_scope.md R7, R8): bytes, 16-bit variable
addresses and values, 32-bit Host words and tick counts. -/

namespace Sys2Proof

/-- A byte; bit 7 is its most significant bit (R8). -/
abbrev Byte := BitVec 8

/-- A 16-bit variable address of the display (R7, R35). -/
abbrev Addr := BitVec 16

/-- A 32-bit word: a Host register, a float pattern, a count of ticks (`TIME_W` = 32, R6). -/
abbrev Word := BitVec 32

end Sys2Proof
end

