-- ==== Sys2Proof/Machine/Events.lean ====
section
/-! DEFINITION. What each agent of spec/00_scope.md R5 may do in one step, as plain data. -/

namespace Sys2Proof.Machine

/-- The Transport's answer to one `TxWrite` (spec/20_memory.md R42): the verdict `ok`, and how many bytes of
the frame reached the wire when `ok` is false (a count beyond the frame's length stands for all of it). -/
structure TxVerdict where
  ok   : Bool
  sent : Nat
  deriving DecidableEq, Repr, Inhabited

/-- The Host's moves (spec/60_exceptions.md R141): a write or a read of the register map of
spec/10_state.md R30, and the reset input (spec/70_reset_and_hazards.md R147). The offer of a command is the
write to `GO`. -/
inductive HostAction where
  | write (offset : Nat) (value : Word)
  | read (offset : Nat)
  | reset
  deriving DecidableEq, Repr, Inhabited

/-- The Link's moves (R142): a received byte, and its decision about the next `TxWrite`. -/
inductive LinkAction where
  | receive (b : Byte)
  | verdict (v : TxVerdict)
  deriving DecidableEq, Repr, Inhabited

/-- One move of one of the four agents (R5). -/
inductive Event where
  | controller
  | host (a : HostAction)
  | link (a : LinkAction)
  | clock
  deriving DecidableEq, Repr, Inhabited

end Sys2Proof.Machine
end

