-- ==== Sys2Proof/Config.lean ====
section
/-! DEFINITION. The configuration parameters of spec/00_scope.md R6 and the free values of the model. -/

namespace Sys2Proof

/-- The parameters of R6 that the spec leaves OPEN. They are part of the state tuple (spec/10_state.md R14) and
no step changes them. `CURVE_APPEND_BODY`, a function of the 8-bit channel, is held as its table of 256
bodies. `TIME_W` = 32 and `TEXT_IN_MAX` = 255 stand in the types. -/
structure Params where
  /-- `HARDENED`: the required behaviour of the document (true) or its current one (false), R13. -/
  hardened : Bool
  /-- `BUZZER_ADDR`. -/
  buzzerAddr : Addr
  /-- `PAGE_PREFIX`: six bytes, the first of them the command byte (spec/40_encoder.md R80, R83). -/
  pagePrefix : Vector Byte 6
  /-- `CURVE_APPEND_BODY`: eleven bytes for each channel (R82, R83). -/
  curveAppendBody : Vector (Vector Byte 11) 256
  /-- `CURVE_CLEAR_BODY`: five bytes (R83, R84). -/
  curveClearBody : Vector Byte 5
  /-- `FRAME_TIMEOUT`, in ticks; read only when `hardened` (spec/41_listener.md R96). -/
  frameTimeout : Word
  /-- `TICK_PERIOD`: the duration one tick stands for. Every rule counts ticks (spec/60_exceptions.md R139), so none
  reads it. -/
  tickPeriod : Nat
  /-- `RX_CAPACITY`: the receive buffer's capacity in bytes, `none` when unbounded (spec/20_memory.md R37). -/
  rxCapacity : Option Nat
  deriving DecidableEq, Repr, Inhabited

/-- DESIGN CHOICE, safe (log entry 1): the OPEN parameters of the machine that `State.reset` describes. No body,
so nothing is provable of their values. -/
opaque Config.params : Params

/-- A free value, safe (log entry 4): the Link's `n`-th decision about a `TxWrite` (R42 draws it freely). -/
opaque Config.txVerdict : Nat → Machine.TxVerdict

/-- A free value, safe (log entry 2): which agent moves at the `n`-th moment that no agenda entry decides, and
what it does. R11 and R133 let every order happen. -/
opaque Config.schedule : Nat → Machine.Event

end Sys2Proof
end

