-- ==== Sys2Proof/Machine/State.lean ====
section
/-! DEFINITION. The architectural state of spec/10_state.md, the environment's streams, and the state after reset. -/

namespace Sys2Proof.Machine

/-- `CTL`, the Controller's phase (R17). The values 12 to 15 are never held and have no constructor. -/
inductive Phase where
  | idle | encTx | encSyncDrain | encAllDrain | peStart | peCollect
  | rtPredrain | rtTx | rtWait | rtCopy | rtFinal | codec
  deriving DecidableEq, Repr, Inhabited

/-- `STATUS.CODE` (spec/60_exceptions.md R123). The values 0x8 to 0xF are never produced and have no constructor. -/
inductive StatusCode where
  | ok | noEvent | frameTimeout | readTimeout | transportError | truncated | invalidArg | invalidOp
  deriving DecidableEq, Repr, Inhabited

/-- `LST_STATE` (R22). The value 3 is never held and has no constructor. -/
inductive LstState where
  | idle | awaitingLength | collectingPayload
  deriving DecidableEq, Repr, Inhabited

/-- `OP`, the operand latch (R18). -/
structure Latch where
  op   : BitVec 4
  len8 : Byte
  addr : Addr
  arg  : Word
  hi   : Byte
  lo   : Byte
  tlen : Byte
  text : Vector Byte 255
  deriving DecidableEq, Repr, Inhabited

/-- The staging registers `DESC0` to `DESC2` and `TEXT_IN` (R19). -/
structure Staging where
  desc0  : Word
  desc1  : Word
  desc2  : Word
  textIn : Vector Byte 255
  deriving DecidableEq, Repr, Inhabited

/-- The event result registers (R21): `EVT_VALID`, `EVT_START`, `EVT_END` (`stop`), `EVT_DATA`, `EVT_CMD`, `EVT_LEN`. -/
structure EventRegs where
  valid : Bool
  start : Byte
  stop  : Byte
  data  : Byte
  cmd   : Byte
  len   : Byte
  deriving DecidableEq, Repr, Inhabited

/-- `LST_STATE` and the partial-frame registers (R22 to R24): `LST_N`, `LST_IDX`, `LST_CMD`, `LST_START`, `LST_END`
(`stop`), `LST_DATA`, `LST_ELAPSED`. -/
structure ListenerRegs where
  state   : LstState
  n       : Byte
  idx     : Byte
  cmd     : Byte
  start   : Byte
  stop    : Byte
  data    : Byte
  elapsed : Word
  deriving DecidableEq, Repr, Inhabited

/-- The text reader's working registers (R26): `RT_HDR`, `RT_RESPLEN`, `RT_DISC`, `RT_READS`, `RT_TO` (`timedOut`),
`RT_ELAPSED`. -/
structure ReaderRegs where
  hdr      : Bool
  respLen  : Byte
  disc     : BitVec 2
  reads    : Byte
  timedOut : Bool
  elapsed  : Word
  deriving DecidableEq, Repr, Inhabited

/-- The state tuple of R14. -/
structure State where
  /-- The configuration (spec/00_scope.md R6); no step changes it. -/
  cfg : Params
  /-- `CTL` (R17). -/
  ctl : Phase
  /-- `OP` (R18). -/
  op : Latch
  /-- `DESC0` to `DESC2`, `TEXT_IN` (R19). -/
  staging : Staging
  /-- `STATUS.OVR` (R20). -/
  ovr : Bool
  /-- `STATUS.CODE` (R20). -/
  code : StatusCode
  /-- `EVT_*` (R21). -/
  evt : EventRegs
  /-- `LST_*` (R22 to R24). -/
  lst : ListenerRegs
  /-- `TEXT_LEN` (R25). -/
  textLen : Byte
  /-- `TEXT_BUF` (R25). -/
  textBuf : Vector Byte 255
  /-- `RT_*` (R26). -/
  rt : ReaderRegs
  /-- `TX_FAIL` (R27). -/
  txFail : Bool
  /-- `TRUNC` (R27). -/
  trunc : Bool
  /-- `MERGE_OUT` (R28). -/
  mergeOut : BitVec 16
  /-- `SPLIT_HI` (R28). -/
  splitHi : Byte
  /-- `SPLIT_LO` (R28). -/
  splitLo : Byte
  /-- `PAGE_CACHE` (R29). -/
  pageCache : Byte
  /-- `RX`, the receive stream, oldest byte first (spec/20_memory.md R37). -/
  rx : List Byte
  /-- `WIRE`, every byte handed to the Transport, oldest first (R42). -/
  wire : List Byte
  /-- The model's own: the Link's answer to the next `TxWrite` (R42, R142; log entry 4). -/
  txVerdict : TxVerdict
  /-- The model's own: how many answers have been drawn (log entry 4). -/
  draws : Nat
  /-- The model's own: what the Host's last read returned (R31; log entry 10). -/
  hostData : Word
  /-- The model's own: the agent moves to come, next first (R5, R11; log entry 2). -/
  agenda : List Event
  /-- The model's own: how many moves the free schedule has decided (log entry 2). -/
  moment : Nat
  deriving DecidableEq, Repr

/-- The block has no fault and no trap (spec/60_exceptions.md R134; spec/93_implementation_defined.md: "not used"), so
there is nothing a step could fault with. -/
inductive Fault where
  deriving DecidableEq, Repr

/-- Reasons for which an instruction has no meaning. -/
inductive Refusal where
  /-- Raised by an arm of `exec` whose instruction has no meaning yet; no arm raises it. Safe: the machine stops. -/
  | notModelled (mnemonic : String)
  deriving DecidableEq, Repr

/-- The reset value of `OP` (R32). -/
def Latch.zero : Latch :=
  { op := 0, len8 := 0, addr := 0, arg := 0, hi := 0, lo := 0, tlen := 0, text := Vector.replicate 255 0 }

/-- The reset value of the staging registers (R32). -/
def Staging.zero : Staging :=
  { desc0 := 0, desc1 := 0, desc2 := 0, textIn := Vector.replicate 255 0 }

/-- The reset value of the event registers, and what a poll without an Event leaves (R32, R90). -/
def EventRegs.zero : EventRegs :=
  { valid := false, start := 0, stop := 0, data := 0, cmd := 0, len := 0 }

/-- The reset value of the listener registers, and what an abort leaves (R32, R91). -/
def ListenerRegs.zero : ListenerRegs :=
  { state := .idle, n := 0, idx := 0, cmd := 0, start := 0, stop := 0, data := 0, elapsed := 0 }

/-- The reset value of the reader registers, and what accepting `READ_TEXT` leaves (R32, R104). -/
def ReaderRegs.zero : ReaderRegs :=
  { hdr := false, respLen := 0, disc := 0, reads := 0, timedOut := false, elapsed := 0 }

/-- The machine right after reset: every block register at its value of R32, the configuration the opaque
`Config.params` (log entry 1). `RX` and `WIRE` are empty, as in the reset state of spec/95_test_vectors.md: DESIGN
CHOICE, unsafe (log entry 5), for the reset input itself does not change them (spec/70_reset_and_hazards.md R147). The
model's own fields: log entries 2, 4, 10. -/
def State.reset : State :=
  { cfg := Config.params
    ctl := .idle
    op := Latch.zero
    staging := Staging.zero
    ovr := false
    code := .ok
    evt := EventRegs.zero
    lst := ListenerRegs.zero
    textLen := 0
    textBuf := Vector.replicate 255 0
    rt := ReaderRegs.zero
    txFail := false
    trunc := false
    mergeOut := 0
    splitHi := 0
    splitLo := 0
    pageCache := 0
    rx := []
    wire := []
    txVerdict := Config.txVerdict 0
    draws := 1
    hostData := 0
    agenda := []
    moment := 0 }

end Sys2Proof.Machine
end

