-- ==== Sys2Proof/Machine/Flags.lean ====
section
/-! DEFINITION. The status register, the flags and the completion statuses. -/

namespace Sys2Proof.Machine

/-- `BUSY` (spec/10_state.md R17): derived from `CTL`. -/
def busy (s : State) : Bool := decide (s.ctl ≠ .idle)

/-- The number of a status code (spec/60_exceptions.md R123). -/
def codeBits : StatusCode → BitVec 4
  | .ok => 0x0
  | .noEvent => 0x1
  | .frameTimeout => 0x2
  | .readTimeout => 0x3
  | .transportError => 0x4
  | .truncated => 0x5
  | .invalidArg => 0x6
  | .invalidOp => 0x7

/-- The number of a listener state (R22). -/
def lstBits : LstState → BitVec 2
  | .idle => 0
  | .awaitingLength => 1
  | .collectingPayload => 2

/-- The number of a phase (R17). -/
def phaseBits : Phase → BitVec 4
  | .idle => 0
  | .encTx => 1
  | .encSyncDrain => 2
  | .encAllDrain => 3
  | .peStart => 4
  | .peCollect => 5
  | .rtPredrain => 6
  | .rtTx => 7
  | .rtWait => 8
  | .rtCopy => 9
  | .rtFinal => 10
  | .codec => 11

/-- The word `STATUS` reads as (R20): bit 0 `BUSY`, bit 1 `OVR`, bits 7:4 `CODE`, bits 9:8 `LST`, all others 0. -/
def statusWord (s : State) : Word :=
  (0 : BitVec 22) ++ lstBits s.lst.state ++ codeBits s.code ++ (0 : BitVec 2) ++ BitVec.ofBool s.ovr
    ++ BitVec.ofBool (busy s)

/-- `EncStatus()` (spec/40_encoder.md R72). -/
def encStatus (s : State) : StatusCode :=
  if s.cfg.hardened && s.txFail then .transportError
  else if s.cfg.hardened && s.trunc then .truncated
  else .ok

/-- `ReadStatus()` (spec/42_text_reader.md R111). -/
def readStatus (s : State) : StatusCode :=
  if s.cfg.hardened && s.txFail then .transportError
  else if s.cfg.hardened && s.rt.timedOut then .readTimeout
  else .ok

/-- `sat_inc` (spec/00_scope.md R8, spec/60_exceptions.md R140). -/
def satInc (v : Word) : Word :=
  if v.toNat < 2 ^ 32 - 1 then v + 1 else v

end Sys2Proof.Machine
end

