-- ==== Sys2Proof/Syntax.lean ====
section
/-! DEFINITION. The instructions: one constructor for each row of spec/opcode_table.json. -/

namespace Sys2Proof

/-- The 16 rows of format `descriptor96` are the commands a Host offers (spec/30_encoding.md R56), with the operands
of R57. The 8 rows of format `wire_frame` are the frames the Controller transmits in a transmit phase (R62); the
bytes that are parameters are no operands. -/
inductive Instr where
  /-- `WRITE_FLOAT addr, F` (R74). -/
  | writeFloat (addr : Addr) (f : Word)
  /-- `WRITE_INT16 addr, V` (R76). -/
  | writeInt16 (addr : Addr) (v : BitVec 16)
  /-- `WRITE_STRING addr, text, maxLen` (R78); the text operand's bytes are staged in `TEXT_IN`, its length is `tlen`. -/
  | writeString (maxLen : Byte) (addr : Addr) (tlen : Byte)
  /-- `SET_BUZZER on` (R79). -/
  | setBuzzer (on : Bool)
  /-- `SWITCH_PAGE P` (R80). -/
  | switchPage (page : Byte)
  /-- `APPEND_CURVE_POINT ch` (R82). -/
  | appendCurvePoint (ch : Byte)
  /-- `CLEAR_CURVE` (R84). -/
  | clearCurve
  /-- `POLL_EVENT` (R85). -/
  | pollEvent
  /-- `READ_TEXT addr, maxLength, T` (R103). -/
  | readText (maxLength : Byte) (addr : Addr) (timeout : Word)
  /-- `MERGE_ADDRESS hi, lo` (R118). -/
  | mergeAddress (hi lo : Byte)
  /-- `SPLIT_ADDRESS addr` (R119). -/
  | splitAddress (addr : Addr)
  /-- The reserved opcode 0x0 (R60). -/
  | reserved0
  /-- The reserved opcode 0xC (R60). -/
  | reservedC
  /-- The reserved opcode 0xD (R60). -/
  | reservedD
  /-- The reserved opcode 0xE (R60). -/
  | reservedE
  /-- The reserved opcode 0xF (R60). -/
  | reservedF
  /-- The frame `5A A5 07 82 AH AL` and the four value bytes of a float (R74). -/
  | frameWriteFloat (addr : Addr) (f : Word)
  /-- The frame `5A A5 05 82 AH AL VH VL` (R76). -/
  | frameWriteInt16 (addr : Addr) (v : BitVec 16)
  /-- The frame `5A A5 (3+M) 82 AH AL` and M value bytes (R78). -/
  | frameWriteString (addr : Addr) (data : List Byte)
  /-- The frame `5A A5 05 82 BH BL 00 on` (R79). -/
  | frameSetBuzzer (on : Bool)
  /-- The frame `5A A5 07`, `PAGE_PREFIX`, `P` (R80). -/
  | frameSwitchPage (page : Byte)
  /-- The frame `5A A5 0B`, `CURVE_APPEND_BODY(ch)` (R82). -/
  | frameAppendCurvePoint (ch : Byte)
  /-- The frame `5A A5 05`, `CURVE_CLEAR_BODY` (R84). -/
  | frameClearCurve
  /-- The frame `5A A5 04 83 AH AL M` (R106). -/
  | frameReadTextRequest (addr : Addr) (maxLength : Byte)
  deriving DecidableEq, Repr, Inhabited

end Sys2Proof
end

