-- ==== Sys2Proof/WellFormed.lean ====
section
/-! DEFINITION. Which instruction terms an encoding exists for. -/

namespace Sys2Proof

/-- `StringArgsValid()` of spec/40_encoder.md R77 on a count of value bytes `m` (`maxLen`): `LEN` = 3 + m fits a byte and is
no sync value. -/
def stringLengthValid (m : Nat) : Bool :=
  decide (m ≤ 252) && decide (3 + m ≠ 0x5A) && decide (3 + m ≠ 0xA5)

/-- Every operand of a command has exactly the width of its descriptor field (R54, R57), so every command term is
well-formed. Of the frames, only the string frame's length is restricted (R61, R66, R77). -/
def Instr.wellFormed : Instr → Bool
  | .frameWriteString _ data => stringLengthValid data.length
  | .writeFloat _ _ | .writeInt16 _ _ | .writeString _ _ _ | .setBuzzer _ | .switchPage _ | .appendCurvePoint _
  | .clearCurve | .pollEvent | .readText _ _ _ | .mergeAddress _ _ | .splitAddress _
  | .reserved0 | .reservedC | .reservedD | .reservedE | .reservedF
  | .frameWriteFloat _ _ | .frameWriteInt16 _ _ | .frameSetBuzzer _ | .frameSwitchPage _ | .frameAppendCurvePoint _
  | .frameClearCurve | .frameReadTextRequest _ _ => true

end Sys2Proof
end

