-- ==== Sys2Proof/Decode.lean ====
section
/-! DEFINITION. The encodings of spec/30_encoding.md: the descriptor's decoder, the wire frames' decoder, and after
them the encoder. -/

namespace Sys2Proof

/-! ### Bytes of an address (R9, R43) -/

/-- `hi8(a)` (R9). -/
def hi8 (a : Addr) : Byte := a.extractLsb' 8 8

/-- `lo8(a)` (R9). -/
def lo8 (a : Addr) : Byte := a.extractLsb' 0 8

/-- The address whose high and low bytes are given: `merge` of spec/43_address_codec.md R118 and R120. -/
def addrOf (h l : Byte) : Addr := h ++ l

/-- `SYNC0` (spec/00_scope.md R7). -/
def sync0 : Byte := 0x5A
/-- `SYNC1` (R7). -/
def sync1 : Byte := 0xA5
/-- `CMD_WRITE` (R7). -/
def cmdWrite : Byte := 0x82
/-- `CMD_READ` (R7). -/
def cmdRead : Byte := 0x83
/-- `FILL`, the padding and terminator byte (R7). -/
def fillByte : Byte := 0xFF

/-! ### Command descriptors (R54 to R57) -/

/-- The command with the given descriptor fields (R56, R57). Total: the reserved opcodes are commands too (R60). Fields
and bits an opcode does not use are ignored (R55). -/
def decodeFields (op : BitVec 4) (len8 : Byte) (addr : Addr) (arg : Word) (hi lo tlen : Byte) : Instr :=
  match op.toNat with
  | 0x0 => .reserved0
  | 0x1 => .writeFloat addr arg
  | 0x2 => .writeInt16 addr (arg.extractLsb' 0 16)
  | 0x3 => .writeString len8 addr tlen
  | 0x4 => .setBuzzer (arg.getLsbD 0)
  | 0x5 => .switchPage (arg.extractLsb' 0 8)
  | 0x6 => .appendCurvePoint (arg.extractLsb' 0 8)
  | 0x7 => .clearCurve
  | 0x8 => .pollEvent
  | 0x9 => .readText len8 addr arg
  | 0xA => .mergeAddress hi lo
  | 0xB => .splitAddress addr
  | 0xC => .reservedC
  | 0xD => .reservedD
  | 0xE => .reservedE
  | _   => .reservedF

/-- The command a 96-bit descriptor stands for (R54). -/
def decodeDescriptor (d : BitVec 96) : Instr :=
  decodeFields (d.extractLsb' 0 4) (d.extractLsb' 8 8) (d.extractLsb' 16 16) (d.extractLsb' 32 32)
    (d.extractLsb' 64 8) (d.extractLsb' 72 8) (d.extractLsb' 80 8)

/-! ### Frame bodies (R62) -/

/-- Body of `WRITE_FLOAT`'s frame: the float's two halves trade places (R44, R74). -/
def bodyWriteFloat (addr : Addr) (f : Word) : List Byte :=
  [cmdWrite, hi8 addr, lo8 addr, f.extractLsb' 8 8, f.extractLsb' 0 8, f.extractLsb' 24 8, f.extractLsb' 16 8]

/-- Body of `WRITE_INT16`'s frame (R76). -/
def bodyWriteInt16 (addr : Addr) (v : BitVec 16) : List Byte :=
  [cmdWrite, hi8 addr, lo8 addr, v.extractLsb' 8 8, v.extractLsb' 0 8]

/-- Body of `WRITE_STRING`'s frame, from its value bytes (R78). -/
def bodyWriteString (addr : Addr) (data : List Byte) : List Byte :=
  [cmdWrite, hi8 addr, lo8 addr] ++ data

/-- Body of `SET_BUZZER`'s frame (R79). -/
def bodySetBuzzer (p : Params) (on : Bool) : List Byte :=
  [cmdWrite, hi8 p.buzzerAddr, lo8 p.buzzerAddr, 0x00, if on then 0x01 else 0x00]

/-- Body of `SWITCH_PAGE`'s frame (R80). -/
def bodySwitchPage (p : Params) (page : Byte) : List Byte :=
  p.pagePrefix.toList ++ [page]

/-- Body of `APPEND_CURVE_POINT`'s frame: `CURVE_APPEND_BODY(ch)` (R82). -/
def bodyAppendCurvePoint (p : Params) (ch : Byte) : List Byte :=
  (p.curveAppendBody[ch.toNat]'(ch.isLt)).toList

/-- Body of `CLEAR_CURVE`'s frame (R84). -/
def bodyClearCurve (p : Params) : List Byte :=
  p.curveClearBody.toList

/-- Body of `READ_TEXT`'s request (spec/42_text_reader.md R106). -/
def bodyReadTextRequest (addr : Addr) (maxLength : Byte) : List Byte :=
  [cmdRead, hi8 addr, lo8 addr, maxLength]

/-- `frame(body)` of R61: the sync pair, the length byte, the body. -/
def frameOf (body : List Byte) : List Byte :=
  [sync0, sync1, BitVec.ofNat 8 body.length] ++ body

/-- The value bytes of `WRITE_STRING` (R78): the text's first min(tlen, M) bytes, then the fill byte up to M bytes. -/
def stringData (text : List Byte) (tlen m : Byte) : List Byte :=
  let k := min tlen.toNat m.toNat
  text.take k ++ List.replicate (m.toNat - k) fillByte

/-! ### Decoding a wire frame -/

/-- Why a byte sequence is no frame of a given operation. -/
inductive DecodeError where
  /-- Fewer than the sync pair and the length byte. -/
  | tooShort
  /-- The first two bytes are not `SYNC0`, `SYNC1`. -/
  | badSync
  /-- `LEN` is not the number of body bytes, or is no length this operation sends. -/
  | badLength
  /-- The command byte is not this operation's. -/
  | badCommand
  /-- A byte that R62 or a parameter fixes has another value. -/
  | badFixedByte
  /-- The opcode transmits no frame. -/
  | noFrame
  deriving DecidableEq, Repr

/-- The channel whose curve body is `body`, the least one if several channels share it. -/
def channelOf (p : Params) (body : List Byte) : Option Byte :=
  ((List.range 256).map (BitVec.ofNat 8)).find? fun ch => decide (bodyAppendCurvePoint p ch = body)

/-- The frame instruction of operation `op` with the given body (R62). -/
def decodeBody (p : Params) (op : BitVec 4) (body : List Byte) : Except DecodeError Instr :=
  match op.toNat with
  | 0x1 =>
    match body with
    | [c, ah, al, b1, b0, b3, b2] =>
      if c = cmdWrite then .ok (.frameWriteFloat (addrOf ah al) (b3 ++ b2 ++ b1 ++ b0)) else .error .badCommand
    | _ => .error .badLength
  | 0x2 =>
    match body with
    | [c, ah, al, vh, vl] =>
      if c = cmdWrite then .ok (.frameWriteInt16 (addrOf ah al) (vh ++ vl)) else .error .badCommand
    | _ => .error .badLength
  | 0x3 =>
    match body with
    | c :: ah :: al :: data =>
      if c = cmdWrite then
        if stringLengthValid data.length then .ok (.frameWriteString (addrOf ah al) data) else .error .badLength
      else .error .badCommand
    | _ => .error .badLength
  | 0x4 =>
    if body = bodySetBuzzer p true then .ok (.frameSetBuzzer true)
    else if body = bodySetBuzzer p false then .ok (.frameSetBuzzer false)
    else .error .badFixedByte
  | 0x5 =>
    match body with
    | [q0, q1, q2, q3, q4, q5, page] =>
      if [q0, q1, q2, q3, q4, q5] = p.pagePrefix.toList then .ok (.frameSwitchPage page) else .error .badFixedByte
    | _ => .error .badLength
  | 0x6 =>
    if body.length = 11 then
      match channelOf p body with
      | some ch => .ok (.frameAppendCurvePoint ch)
      | none => .error .badFixedByte
    else .error .badLength
  | 0x7 =>
    if body.length = 5 then
      if body = bodyClearCurve p then .ok .frameClearCurve else .error .badFixedByte
    else .error .badLength
  | 0x9 =>
    match body with
    | [c, ah, al, m] =>
      if c = cmdRead then .ok (.frameReadTextRequest (addrOf ah al) m) else .error .badCommand
    | _ => .error .badLength
  | _ => .error .noFrame

/-- The frame instruction of operation `op` whose bytes are given (R61, R62). The operation is an argument because the
bytes alone do not name it: `SET_BUZZER` sends the same frame as a `WRITE_INT16` (R67); log entry 9. -/
def decodeFrame (p : Params) (op : BitVec 4) (bytes : List Byte) : Except DecodeError Instr :=
  match bytes with
  | s0 :: s1 :: len :: body =>
    if s0 ≠ sync0 ∨ s1 ≠ sync1 then .error .badSync
    else if len.toNat ≠ body.length then .error .badLength
    else decodeBody p op body
  | _ => .error .tooShort

/-! ### Both encodings as one -/

/-- An encoded instruction: a command's descriptor, or a frame's bytes with the operation that sends it. -/
inductive Code where
  | descriptor (d : BitVec 96)
  | frame (op : BitVec 4) (bytes : List Byte)
  deriving DecidableEq, Repr

/-- The decoder, total on any code. -/
def decode (p : Params) : Code → Except DecodeError Instr
  | .descriptor d => .ok (decodeDescriptor d)
  | .frame op bytes => decodeFrame p op bytes

/-! ### The encoder -/

/-- The opcode of a command (R56); for a frame, the opcode of the operation that sends it (R62). -/
def Instr.opcode : Instr → BitVec 4
  | .reserved0 => 0x0
  | .writeFloat _ _ | .frameWriteFloat _ _ => 0x1
  | .writeInt16 _ _ | .frameWriteInt16 _ _ => 0x2
  | .writeString _ _ _ | .frameWriteString _ _ => 0x3
  | .setBuzzer _ | .frameSetBuzzer _ => 0x4
  | .switchPage _ | .frameSwitchPage _ => 0x5
  | .appendCurvePoint _ | .frameAppendCurvePoint _ => 0x6
  | .clearCurve | .frameClearCurve => 0x7
  | .pollEvent => 0x8
  | .readText _ _ _ | .frameReadTextRequest _ _ => 0x9
  | .mergeAddress _ _ => 0xA
  | .splitAddress _ => 0xB
  | .reservedC => 0xC
  | .reservedD => 0xD
  | .reservedE => 0xE
  | .reservedF => 0xF

/-- A descriptor from its fields, reserved bits 0 (R54, R55). -/
def packDescriptor (op : BitVec 4) (len8 : Byte) (addr : Addr) (arg : Word) (hi lo tlen : Byte) : BitVec 96 :=
  (0 : Byte) ++ tlen ++ lo ++ hi ++ arg ++ addr ++ len8 ++ (0 : BitVec 4) ++ op

/-- The encoding of an instruction: a command's descriptor with every field and bit it does not use 0, or a frame's
bytes (R54, R57, R62). -/
def encode (p : Params) (i : Instr) : Code :=
  match i with
  | .writeFloat addr f => .descriptor (packDescriptor i.opcode 0 addr f 0 0 0)
  | .writeInt16 addr v => .descriptor (packDescriptor i.opcode 0 addr (v.setWidth 32) 0 0 0)
  | .writeString m addr tlen => .descriptor (packDescriptor i.opcode m addr 0 0 0 tlen)
  | .setBuzzer on => .descriptor (packDescriptor i.opcode 0 0 (if on then 1 else 0) 0 0 0)
  | .switchPage page => .descriptor (packDescriptor i.opcode 0 0 (page.setWidth 32) 0 0 0)
  | .appendCurvePoint ch => .descriptor (packDescriptor i.opcode 0 0 (ch.setWidth 32) 0 0 0)
  | .readText m addr t => .descriptor (packDescriptor i.opcode m addr t 0 0 0)
  | .mergeAddress hi lo => .descriptor (packDescriptor i.opcode 0 0 0 hi lo 0)
  | .splitAddress addr => .descriptor (packDescriptor i.opcode 0 addr 0 0 0 0)
  | .clearCurve | .pollEvent | .reserved0 | .reservedC | .reservedD | .reservedE | .reservedF =>
    .descriptor (packDescriptor i.opcode 0 0 0 0 0 0)
  | .frameWriteFloat addr f => .frame i.opcode (frameOf (bodyWriteFloat addr f))
  | .frameWriteInt16 addr v => .frame i.opcode (frameOf (bodyWriteInt16 addr v))
  | .frameWriteString addr data => .frame i.opcode (frameOf (bodyWriteString addr data))
  | .frameSetBuzzer on => .frame i.opcode (frameOf (bodySetBuzzer p on))
  | .frameSwitchPage page => .frame i.opcode (frameOf (bodySwitchPage p page))
  | .frameAppendCurvePoint ch => .frame i.opcode (frameOf (bodyAppendCurvePoint p ch))
  | .frameClearCurve => .frame i.opcode (frameOf (bodyClearCurve p))
  | .frameReadTextRequest addr m => .frame i.opcode (frameOf (bodyReadTextRequest addr m))

/-! ### The host's entry -/

/-- The first `n` bytes of a number, least significant first. -/
def bytesOf (n w : Nat) : List Byte :=
  (List.range n).map fun k => BitVec.ofNat 8 (w / 256 ^ k)

/-- The first of the listed operations one of whose frames the bytes are. -/
def decodeWireAs (p : Params) (bytes : List Byte) : List (BitVec 4) → Option Instr
  | [] => none
  | op :: ops =>
    match decodeFrame p op bytes with
    | .ok i => some i
    | .error _ => decodeWireAs p bytes ops

/-- Reading bytes as a frame with no operation given: the operations whose bytes R62 fixes without a parameter come
first. DESIGN CHOICE, safe (log entry 9); only `decodeTableWord` uses it. -/
def decodeWire (p : Params) (bytes : List Byte) : Option Instr :=
  decodeWireAs p bytes [0x2, 0x1, 0x9, 0x3, 0x5, 0x7, 0x6, 0x4]

/-- The instruction whose bits are `w`, `nbits` of them given by the opcode table. At most 32 bits, or 96: a
descriptor with the bits above 0. Any other number of bytes: the wire frame of those bytes if they begin with the sync
pair, otherwise a descriptor (log entry 9). -/
def decodeTableWord (nbits w : Nat) : Option Instr :=
  if nbits ≤ 32 ∨ nbits = 96 then some (decodeDescriptor (BitVec.ofNat 96 w))
  else if (bytesOf 2 w) = [sync0, sync1] then decodeWire Config.params (bytesOf (nbits / 8) w)
  else if nbits ≤ 96 then some (decodeDescriptor (BitVec.ofNat 96 w))
  else none

end Sys2Proof
end

