-- ==== Sys2Proof/Machine/Operands.lean ====
section
/-! DEFINITION. Every operand form: the staged descriptor's fields, the operand latch, the frame a transmit phase
sends. -/

namespace Sys2Proof.Machine

/-- The staged descriptor as the latch takes it (spec/30_encoding.md R58). -/
def latchOf (g : Staging) : Latch :=
  { op   := g.desc0.extractLsb' 0 4
    len8 := g.desc0.extractLsb' 8 8
    addr := g.desc0.extractLsb' 16 16
    arg  := g.desc1
    hi   := g.desc2.extractLsb' 0 8
    lo   := g.desc2.extractLsb' 8 8
    tlen := g.desc2.extractLsb' 16 8
    text := g.textIn }

/-- The command a latch holds (R56, R57). -/
def latchInstr (l : Latch) : Instr :=
  decodeFields l.op l.len8 l.addr l.arg l.hi l.lo l.tlen

/-- The 96-bit descriptor staged (R54): `DESC2`, `DESC1`, `DESC0`, most significant first. -/
def stagedDescriptor (g : Staging) : BitVec 96 :=
  g.desc2 ++ g.desc1 ++ g.desc0

/-- The command the Host has staged. -/
def stagedInstr (g : Staging) : Instr :=
  decodeDescriptor (stagedDescriptor g)

/-- `StringArgsValid()` (spec/40_encoder.md R77), `m` being `maxLen`. -/
def stringArgsValid (m : Byte) : Bool :=
  decide (m.toNat ≤ 252) && decide (m.toNat ≠ 87) && decide (m.toNat ≠ 162)

/-- The frame instruction with which the operation in the latch transmits (R62), if it transmits one: a refused
`WRITE_STRING` (R77) and the operations outside the encoder and the text reader do not. -/
def latchFrame (l : Latch) : Option Instr :=
  match latchInstr l with
  | .writeFloat addr f => some (.frameWriteFloat addr f)
  | .writeInt16 addr v => some (.frameWriteInt16 addr v)
  | .writeString m addr tlen =>
    if stringArgsValid m then some (.frameWriteString addr (stringData l.text.toList tlen m)) else none
  | .setBuzzer on => some (.frameSetBuzzer on)
  | .switchPage page => some (.frameSwitchPage page)
  | .appendCurvePoint ch => some (.frameAppendCurvePoint ch)
  | .clearCurve => some .frameClearCurve
  | .readText m addr _ => some (.frameReadTextRequest addr m)
  | .pollEvent | .mergeAddress _ _ | .splitAddress _
  | .reserved0 | .reservedC | .reservedD | .reservedE | .reservedF
  | .frameWriteFloat _ _ | .frameWriteInt16 _ _ | .frameWriteString _ _ | .frameSetBuzzer _ | .frameSwitchPage _
  | .frameAppendCurvePoint _ | .frameClearCurve | .frameReadTextRequest _ _ => none

/-- The instruction the Controller's next step runs (spec/10_state.md R16, R17): in a transmit phase the frame of the
operation in the latch, in every other phase that operation. -/
def currentInstr (s : State) : Instr :=
  match s.ctl with
  | .encTx | .rtTx => (latchFrame s.op).getD (latchInstr s.op)
  | .idle | .encSyncDrain | .encAllDrain | .peStart | .peCollect | .rtPredrain | .rtWait | .rtCopy | .rtFinal
  | .codec => latchInstr s.op

end Sys2Proof.Machine
end

