-- ==== Sys2Proof/Machine/Ops.lean ====
section
/-! DEFINITION. The named operations: acceptance, completion, the two byte streams, the listener's and the Host's
register operations, the tick and the reset input. -/

namespace Sys2Proof.Machine

/-! ### Phases, completion, acceptance -/

/-- `CTL <- phase` (spec/00_scope.md R10). -/
def goto (c : Phase) (s : State) : State :=
  { s with ctl := c }

/-- `Complete(code)` (spec/60_exceptions.md R122): what stands in the place of a trap (R134). -/
def complete (c : StatusCode) (s : State) : State :=
  { s with code := c, ctl := .idle }

/-- The writes of an accepted offer before the dispatch (spec/30_encoding.md R58). -/
def latch (s : State) : State :=
  { s with op := latchOf s.staging, ovr := false, txFail := false, trunc := false }

/-- An offer while `BUSY` (R58): `OVR` is set and nothing else changes. -/
def refuseOffer (s : State) : State :=
  { s with ovr := true }

/-- An accepted offer whose first phase is `c` (R58, R59). -/
def acceptInto (c : Phase) (s : State) : State :=
  goto c (latch s)

/-! ### The receive stream (spec/20_memory.md R37 to R41) -/

/-- `RxCount()` (R38). -/
def rxCount (s : State) : Nat := s.rx.length

/-- The stream with the given bytes left in it, after pops at its head (R40). -/
def setRx (bs : List Byte) (s : State) : State :=
  { s with rx := bs }

/-- `RxClear()` (R41). -/
def rxClear (s : State) : State :=
  setRx [] s

/-- Is the byte a sync byte (spec/00_scope.md R7)? -/
def isSync (b : Byte) : Bool := b == sync0 || b == sync1

/-- Is there room for one more received byte (R37)? -/
def rxHasRoom (s : State) : Bool :=
  match s.cfg.rxCapacity with
  | none => true
  | some c => decide (s.rx.length < c)

/-- The Link appends a byte (R37). At a full buffer the byte is lost (DESIGN CHOICE, unsafe; log entry 6). -/
def receive (b : Byte) (s : State) : State :=
  if rxHasRoom s then setRx (s.rx ++ [b]) s else s

/-! ### The transmit stream (R42) -/

/-- The part of a frame that reaches the wire under a verdict: all of it, or on failure a prefix. -/
def sentPart (v : TxVerdict) (frame : List Byte) : List Byte :=
  if v.ok then frame else frame.take v.sent

/-- `ok <- TxWrite(frame); TX_FAIL <- not ok` (R42, spec/40_encoder.md R69). The verdict is the free value in
`txVerdict`; the next one is drawn for the next write (log entry 4). -/
def transmit (frame : List Byte) (s : State) : State :=
  { s with
      wire := s.wire ++ sentPart s.txVerdict frame
      txFail := !s.txVerdict.ok
      txVerdict := Config.txVerdict s.draws
      draws := s.draws + 1 }

/-- The Link decides the next `TxWrite` (spec/60_exceptions.md R142). -/
def setVerdict (v : TxVerdict) (s : State) : State :=
  { s with txVerdict := v }

/-! ### The encoder's shared phases (spec/40_encoder.md R69 to R71) -/

/-- `TRUNC` is written (R69; only `WRITE_STRING` does). -/
def setTrunc (b : Bool) (s : State) : State :=
  { s with trunc := b }

/-- Phase `ENC_TX` once the body is known (R69): transmit, then the drain phase `c`. -/
def encTransmit (body : List Byte) (c : Phase) (s : State) : State :=
  goto c (transmit (frameOf body) s)

/-- Phase `ENC_SYNC_DRAIN` (R70): the run of sync bytes at the head of `RX` is removed. -/
def encSyncDrain (s : State) : State :=
  complete (encStatus s) (setRx (s.rx.dropWhile isSync) s)

/-- `PAGE_CACHE` is written (R29, R71). -/
def setPageCache (b : Byte) (s : State) : State :=
  { s with pageCache := b }

/-- Phase `ENC_ALL_DRAIN` (R71). -/
def encAllDrain (page : Byte) (s : State) : State :=
  complete (encStatus s) (setPageCache page (rxClear s))

/-- The phases of an encoder operation that ends in `ENC_SYNC_DRAIN` (R68), `tx` being its step in `ENC_TX`. In a phase of
another operation the command is an offer to a busy block (log entry 7). -/
def encoderOp (tx : State → State) (s : State) : State :=
  match s.ctl with
  | .idle => acceptInto .encTx s
  | .encTx => tx s
  | .encSyncDrain => encSyncDrain s
  | .encAllDrain | .peStart | .peCollect | .rtPredrain | .rtTx | .rtWait | .rtCopy | .rtFinal | .codec => refuseOffer s

/-- The transmission of an encoder frame: it takes place in `ENC_TX` and nowhere else (R69; log entry 8). -/
def encoderFrame (tx : State → State) (s : State) : State :=
  match s.ctl with
  | .encTx => tx s
  | .idle | .encSyncDrain | .encAllDrain | .peStart | .peCollect | .rtPredrain | .rtTx | .rtWait | .rtCopy | .rtFinal
  | .codec => s

/-! ### The listener's parts (spec/41_listener.md R86 to R91) -/

/-- The listener registers are written. -/
def setLst (l : ListenerRegs) (s : State) : State :=
  { s with lst := l }

/-- `LST_STATE` is written. -/
def setLstState (x : LstState) (s : State) : State :=
  setLst { s.lst with state := x } s

/-- The event registers are written. -/
def setEvt (e : EventRegs) (s : State) : State :=
  { s with evt := e }

/-- `NoEvent(code)` (R90). -/
def noEvent (c : StatusCode) (s : State) : State :=
  complete c (setEvt EventRegs.zero s)

/-- `AbortPartial()` (R91). -/
def abortPartial (s : State) : State :=
  setLst ListenerRegs.zero s

/-- Acceptance of `POLL_EVENT` (R59, R86). -/
def acceptPoll (s : State) : State :=
  let t := acceptInto .peStart s
  match t.lst.state with
  | .idle => setLstState .awaitingLength t
  | .awaitingLength | .collectingPayload => t

/-- A byte that is no length where one is expected (R87): a sync byte, or 0x00. -/
def isStray (b : Byte) : Bool := isSync b || b == 0x00

/-- The registers with which a frame of length `n` begins (R87). -/
def startFrame (n : Byte) (l : ListenerRegs) : ListenerRegs :=
  { l with state := .collectingPayload, n := n, idx := 0, cmd := 0, start := 0, stop := 0, data := 0, elapsed := 0 }

/-- `ReadLength()` (R87). -/
def readLength (s : State) : State :=
  match s.rx with
  | [] => noEvent .noEvent (setLstState .idle s)
  | b :: rest =>
    if isStray b then noEvent .noEvent (setLstState .idle (setRx rest s))
    else setLst (startFrame b s.lst) (setRx rest s)

/-- What `TakeBodyByte()` does with the byte it popped (R88): the four index tests are independent. -/
def storeBodyByte (c : Byte) (l : ListenerRegs) : ListenerRegs :=
  let i := l.idx + 1
  { l with
      idx := i
      cmd := if i = 1 then c else l.cmd
      start := if i = 2 then c else l.start
      stop := if i = 3 then c else l.stop
      data := if i = l.n then c else l.data }

/-- `Publish()` (R89). -/
def publish (s : State) : State :=
  complete .ok (setLstState .idle (setEvt
    { valid := true, cmd := s.lst.cmd, start := s.lst.start, stop := s.lst.stop, data := s.lst.data, len := s.lst.n } s))

/-- `while LST_IDX < LST_N and RxCount() >= 1: TakeBodyByte()` (R96), on the stream and the registers. -/
def collectBody : List Byte → ListenerRegs → List Byte × ListenerRegs
  | [], l => ([], l)
  | c :: rest, l => if l.idx < l.n then collectBody rest (storeBodyByte c l) else (c :: rest, l)

/-! ### The text reader's registers (spec/42_text_reader.md) -/

/-- The reader's working registers are written. -/
def setRt (r : ReaderRegs) (s : State) : State :=
  { s with rt := r }

/-- `TEXT_LEN` is written. -/
def setTextLen (n : Byte) (s : State) : State :=
  { s with textLen := n }

/-- `TEXT_BUF[TEXT_LEN] <- c; TEXT_LEN <- TEXT_LEN + 1` (R109). -/
def appendText (c : Byte) (s : State) : State :=
  { s with textBuf := s.textBuf.setIfInBounds s.textLen.toNat c, textLen := s.textLen + 1 }

/-! ### The Host's register map (spec/10_state.md R30) -/

/-- The word at an offset of the register map. Unlisted offsets and reserved bits read 0; an element of a text array is a
byte, zero-extended (log entry 10). -/
def hostRead (offset : Nat) (s : State) : Word :=
  if offset = 0x000 then statusWord s
  else if offset = 0x004 then (0 : Byte) ++ s.evt.len ++ s.evt.cmd ++ (0 : BitVec 7) ++ BitVec.ofBool s.evt.valid
  else if offset = 0x008 then (0 : Byte) ++ s.evt.data ++ s.evt.stop ++ s.evt.start
  else if offset = 0x00C then s.splitLo ++ s.splitHi ++ s.mergeOut
  else if offset = 0x010 then (0 : BitVec 16) ++ s.textLen ++ s.pageCache
  else if offset = 0x020 then s.staging.desc0
  else if offset = 0x024 then s.staging.desc1
  else if offset = 0x028 then s.staging.desc2
  else if 0x100 ≤ offset ∧ offset < 0x100 + 255 then (s.textBuf[offset - 0x100]?.getD 0).setWidth 32
  else if 0x200 ≤ offset ∧ offset < 0x200 + 255 then (s.staging.textIn[offset - 0x200]?.getD 0).setWidth 32
  else 0

/-- A Host write other than to `GO` (R19, R30): a staging register, or ignored. -/
def stage (offset : Nat) (value : Word) (g : Staging) : Staging :=
  if offset = 0x020 then { g with desc0 := value }
  else if offset = 0x024 then { g with desc1 := value }
  else if offset = 0x028 then { g with desc2 := value }
  else if 0x200 ≤ offset ∧ offset < 0x200 + 255 then
    { g with textIn := g.textIn.setIfInBounds (offset - 0x200) (value.setWidth 8) }
  else g

/-- The staging registers are written. -/
def setStaging (g : Staging) (s : State) : State :=
  { s with staging := g }

/-- The offset of `GO` (R30). -/
def goOffset : Nat := 0x02C

/-- What the Host's last read returned. -/
def setHostData (w : Word) (s : State) : State :=
  { s with hostData := w }

/-! ### Clock and reset -/

/-- A `TICK` (spec/60_exceptions.md R139). -/
def tick (s : State) : State :=
  { s with
      rt := if s.ctl = .rtWait ∨ s.ctl = .rtCopy then { s.rt with elapsed := satInc s.rt.elapsed } else s.rt
      lst := if s.cfg.hardened = true ∧ s.lst.state = .collectingPayload
             then { s.lst with elapsed := satInc s.lst.elapsed } else s.lst }

/-- The reset input (spec/70_reset_and_hazards.md R147): every block register at its value of R32; the configuration, `RX`,
`WIRE` and the environment's fields stay. -/
def resetInput (s : State) : State :=
  { State.reset with
      cfg := s.cfg
      rx := s.rx
      wire := s.wire
      txVerdict := s.txVerdict
      draws := s.draws
      hostData := s.hostData
      agenda := s.agenda
      moment := s.moment }

end Sys2Proof.Machine
end

