-- ==== Sys2Proof/Machine/Codec.lean ====
section
/-! DEFINITION. `MERGE_ADDRESS` and `SPLIT_ADDRESS` (spec/43_address_codec.md). -/

namespace Sys2Proof.Machine

/-- The phases of a codec operation (spec/30_encoding.md R59; spec/43_address_codec.md): accepted into `CODEC`, one step
there, `write` being the write of its result. In another phase the command is an offer to a busy block (log entry 7). -/
def codecOp (write : State → State) (s : State) : State :=
  match s.ctl with
  | .idle => acceptInto .codec s
  | .codec => complete .ok (write s)
  | .encTx | .encSyncDrain | .encAllDrain | .peStart | .peCollect | .rtPredrain | .rtTx | .rtWait | .rtCopy | .rtFinal =>
    refuseOffer s

/-- `MERGE_OUT` is written: `(zext_16(hi) << 8) | zext_16(lo)` (R118). -/
def setMerge (hi lo : Byte) (s : State) : State :=
  { s with mergeOut := (hi.setWidth 16 <<< 8) ||| lo.setWidth 16 }

/-- `SPLIT_HI` and `SPLIT_LO` are written (R119). -/
def setSplit (addr : Addr) (s : State) : State :=
  { s with splitHi := hi8 addr, splitLo := lo8 addr }

/-- `MERGE_ADDRESS` (R118). -/
def execMergeAddress (hi lo : Byte) (s : State) : Host.Outcome State Fault Refusal :=
  .next (codecOp (setMerge hi lo) s)

/-- `SPLIT_ADDRESS` (R119). -/
def execSplitAddress (addr : Addr) (s : State) : Host.Outcome State Fault Refusal :=
  .next (codecOp (setSplit addr) s)

end Sys2Proof.Machine
end

