-- ==== Sys2Proof/Machine/Encoder.lean ====
section
/-! DEFINITION. The seven encoder operations (spec/40_encoder.md). -/

namespace Sys2Proof.Machine

/-- `WRITE_FLOAT` (R74). -/
def execWriteFloat (addr : Addr) (f : Word) (s : State) : Host.Outcome State Fault Refusal :=
  .next (encoderOp (encTransmit (bodyWriteFloat addr f) .encSyncDrain) s)

/-- `WRITE_INT16` (R76). -/
def execWriteInt16 (addr : Addr) (v : BitVec 16) (s : State) : Host.Outcome State Fault Refusal :=
  .next (encoderOp (encTransmit (bodyWriteInt16 addr v) .encSyncDrain) s)

/-- `WRITE_STRING`'s step in `ENC_TX` (R69, R77, R78). -/
def writeStringTx (maxLen : Byte) (addr : Addr) (tlen : Byte) (s : State) : State :=
  if stringArgsValid maxLen then
    encTransmit (bodyWriteString addr (stringData s.op.text.toList tlen maxLen)) .encSyncDrain
      (setTrunc (decide (maxLen.toNat < tlen.toNat)) s)
  else complete .invalidArg s

/-- `WRITE_STRING` (R78). -/
def execWriteString (maxLen : Byte) (addr : Addr) (tlen : Byte) (s : State) : Host.Outcome State Fault Refusal :=
  .next (encoderOp (writeStringTx maxLen addr tlen) s)

/-- `SET_BUZZER` (R79). -/
def execSetBuzzer (on : Bool) (s : State) : Host.Outcome State Fault Refusal :=
  .next (encoderOp (encTransmit (bodySetBuzzer s.cfg on) .encSyncDrain) s)

/-- `SWITCH_PAGE` (R71, R80): its drain is `ENC_ALL_DRAIN`. -/
def execSwitchPage (page : Byte) (s : State) : Host.Outcome State Fault Refusal :=
  .next (match s.ctl with
    | .idle => acceptInto .encTx s
    | .encTx => encTransmit (bodySwitchPage s.cfg page) .encAllDrain s
    | .encAllDrain => encAllDrain page s
    | .encSyncDrain | .peStart | .peCollect | .rtPredrain | .rtTx | .rtWait | .rtCopy | .rtFinal | .codec =>
      refuseOffer s)

/-- `APPEND_CURVE_POINT` (R82). -/
def execAppendCurvePoint (ch : Byte) (s : State) : Host.Outcome State Fault Refusal :=
  .next (encoderOp (encTransmit (bodyAppendCurvePoint s.cfg ch) .encSyncDrain) s)

/-- `CLEAR_CURVE` (R84). -/
def execClearCurve (s : State) : Host.Outcome State Fault Refusal :=
  .next (encoderOp (encTransmit (bodyClearCurve s.cfg) .encSyncDrain) s)

end Sys2Proof.Machine
end

