-- ==== Sys2Proof/Machine/TextReader.lean ====
section
/-! DEFINITION. `READ_TEXT` (spec/42_text_reader.md). -/

namespace Sys2Proof.Machine

/-- Acceptance of `READ_TEXT` (R59, R104). -/
def acceptRead (s : State) : State :=
  let t := setRt ReaderRegs.zero (setTextLen 0 (acceptInto .rtPredrain s))
  match t.lst.state with
  | .collectingPayload => abortPartial t
  | .idle | .awaitingLength => t

/-- Phase `RT_PREDRAIN` (R105). -/
def readPredrain (s : State) : State :=
  goto .rtTx (rxClear s)

/-- Phase `RT_TX` (R106): the deadline starts here. -/
def readTx (maxLength : Byte) (addr : Addr) (s : State) : State :=
  let t := transmit (frameOf (bodyReadTextRequest addr maxLength)) s
  let u := setRt { t.rt with elapsed := 0 } t
  if u.cfg.hardened && u.txFail then goto .rtFinal u else goto .rtWait u

/-- The deadline has elapsed (R107, R109): `RT_ELAPSED >= T`. -/
def deadlineElapsed (timeout : Word) (s : State) : Bool :=
  decide (timeout.toNat ≤ s.rt.elapsed.toNat)

/-- `RT_TO <- 1; CTL <- RT_FINAL` (R107, R109). -/
def readTimeOut (s : State) : State :=
  goto .rtFinal (setRt { s.rt with timedOut := true } s)

/-- `SeekHeader()` (R108); taken only with three bytes buffered. -/
def seekHeader (s : State) : State :=
  match s.rx with
  | b0 :: b1 :: b2 :: rest =>
    if b0 = sync0 then
      if b1 = sync1 then setRt { s.rt with respLen := b2, hdr := true } (setRx rest s)
      else setRx (b2 :: rest) s
    else setRx (b1 :: b2 :: rest) s
  | _ => s

/-- Phase `RT_WAIT` (R107): held, that is unchanged, while its enabling condition fails. -/
def readWait (maxLength : Byte) (timeout : Word) (s : State) : State :=
  if deadlineElapsed timeout s then readTimeOut s
  else if s.rt.hdr then
    if maxLength.toNat + 2 ≤ rxCount s then goto .rtCopy s else s
  else if 3 ≤ rxCount s then seekHeader s
  else s

/-- What phase `RT_COPY` does with the byte it popped (R109). -/
def copyByte (maxLength : Byte) (c : Byte) (s : State) : State :=
  if s.rt.disc.toNat < 3 then
    let t := setRt { s.rt with disc := s.rt.disc + 1 } s
    if t.rt.disc = 3 ∧ maxLength = 0 then goto .rtFinal t else t
  else
    let t := setRt { s.rt with reads := s.rt.reads + 1 } s
    if c = fillByte then goto .rtFinal t
    else
      let u := appendText c t
      if u.rt.reads = maxLength then goto .rtFinal u else u

/-- Phase `RT_COPY` (R109): with `RX` empty the hardened reader ends at its deadline, and the phase is held otherwise. -/
def readCopy (maxLength : Byte) (timeout : Word) (s : State) : State :=
  match s.rx with
  | c :: rest => copyByte maxLength c (setRx rest s)
  | [] => if s.cfg.hardened && deadlineElapsed timeout s then readTimeOut s else s

/-- Phase `RT_FINAL` (R110, R111). -/
def readFinal (s : State) : State :=
  complete (readStatus s) (rxClear s)

/-- `READ_TEXT` (R103). -/
def execReadText (maxLength : Byte) (addr : Addr) (timeout : Word) (s : State) : Host.Outcome State Fault Refusal :=
  .next (match s.ctl with
    | .idle => acceptRead s
    | .rtPredrain => readPredrain s
    | .rtTx => readTx maxLength addr s
    | .rtWait => readWait maxLength timeout s
    | .rtCopy => readCopy maxLength timeout s
    | .rtFinal => readFinal s
    | .encTx | .encSyncDrain | .encAllDrain | .peStart | .peCollect | .codec => refuseOffer s)

end Sys2Proof.Machine
end

