-- ==== Sys2Proof/Machine/Frames.lean ====
section
/-! DEFINITION. The wire frames (spec/30_encoding.md R62) as the instructions of the transmit phases. -/

namespace Sys2Proof.Machine

/-- `FRAME_WRITE_FLOAT` (R69, R74). -/
def execFrameWriteFloat (addr : Addr) (f : Word) (s : State) : Host.Outcome State Fault Refusal :=
  .next (encoderFrame (encTransmit (bodyWriteFloat addr f) .encSyncDrain) s)

/-- `FRAME_WRITE_INT16` (R69, R76). -/
def execFrameWriteInt16 (addr : Addr) (v : BitVec 16) (s : State) : Host.Outcome State Fault Refusal :=
  .next (encoderFrame (encTransmit (bodyWriteInt16 addr v) .encSyncDrain) s)

/-- `FRAME_WRITE_STRING` (R69, R78): the step that sends it also writes `TRUNC` from the latch. -/
def execFrameWriteString (addr : Addr) (data : List Byte) (s : State) : Host.Outcome State Fault Refusal :=
  .next (encoderFrame (fun t => encTransmit (bodyWriteString addr data) .encSyncDrain
    (setTrunc (decide (t.op.len8.toNat < t.op.tlen.toNat)) t)) s)

/-- `FRAME_SET_BUZZER` (R69, R79). -/
def execFrameSetBuzzer (on : Bool) (s : State) : Host.Outcome State Fault Refusal :=
  .next (encoderFrame (encTransmit (bodySetBuzzer s.cfg on) .encSyncDrain) s)

/-- `FRAME_SWITCH_PAGE` (R69, R80): `ENC_ALL_DRAIN` follows. -/
def execFrameSwitchPage (page : Byte) (s : State) : Host.Outcome State Fault Refusal :=
  .next (encoderFrame (encTransmit (bodySwitchPage s.cfg page) .encAllDrain) s)

/-- `FRAME_APPEND_CURVE_POINT` (R69, R82). -/
def execFrameAppendCurvePoint (ch : Byte) (s : State) : Host.Outcome State Fault Refusal :=
  .next (encoderFrame (encTransmit (bodyAppendCurvePoint s.cfg ch) .encSyncDrain) s)

/-- `FRAME_CLEAR_CURVE` (R69, R84). -/
def execFrameClearCurve (s : State) : Host.Outcome State Fault Refusal :=
  .next (encoderFrame (encTransmit (bodyClearCurve s.cfg) .encSyncDrain) s)

/-- `FRAME_READ_TEXT_REQUEST` (spec/42_text_reader.md R106): it is sent in `RT_TX` and nowhere else. -/
def execFrameReadTextRequest (addr : Addr) (maxLength : Byte) (s : State) : Host.Outcome State Fault Refusal :=
  .next (match s.ctl with
    | .rtTx => readTx maxLength addr s
    | .idle | .encTx | .encSyncDrain | .encAllDrain | .peStart | .peCollect | .rtPredrain | .rtWait | .rtCopy | .rtFinal
    | .codec => s)

end Sys2Proof.Machine
end

