-- ==== Sys2Proof/Machine/Listener.lean ====
section
/-! DEFINITION. `POLL_EVENT` (spec/41_listener.md). -/

namespace Sys2Proof.Machine

/-- Phase `PE_START`, legacy (R92). -/
def pollStartLegacy (s : State) : State :=
  let t := readLength s
  match t.lst.state with
  | .collectingPayload => goto .peCollect t
  | .idle | .awaitingLength => t

/-- The part of a hardened `PE_START` after the length is known (R96). -/
def pollCollect (s : State) : State :=
  let r := collectBody s.rx s.lst
  let t := setLst r.2 (setRx r.1 s)
  if t.lst.idx = t.lst.n then publish t
  else if t.lst.elapsed.toNat ≥ t.cfg.frameTimeout.toNat then noEvent .frameTimeout (abortPartial t)
  else noEvent .noEvent t

/-- Phase `PE_START`, hardened (R96): never held. -/
def pollStartHardened (s : State) : State :=
  match s.lst.state with
  | .awaitingLength =>
    let t := readLength s
    match t.lst.state with
    | .collectingPayload => pollCollect t
    | .idle | .awaitingLength => t
  | .idle | .collectingPayload => pollCollect s

/-- Phase `PE_COLLECT` (R93): held, that is unchanged, while `RX` is empty (R94; log entry 7). -/
def pollCollectLegacy (s : State) : State :=
  match s.rx with
  | [] => s
  | c :: rest =>
    let t := setLst (storeBodyByte c s.lst) (setRx rest s)
    if t.lst.idx = t.lst.n then publish t else t

/-- `POLL_EVENT` (R85). -/
def execPollEvent (s : State) : Host.Outcome State Fault Refusal :=
  .next (match s.ctl with
    | .idle => acceptPoll s
    | .peStart => if s.cfg.hardened then pollStartHardened s else pollStartLegacy s
    | .peCollect => pollCollectLegacy s
    | .encTx | .encSyncDrain | .encAllDrain | .rtPredrain | .rtTx | .rtWait | .rtCopy | .rtFinal | .codec =>
      refuseOffer s)

end Sys2Proof.Machine
end

