-- ==== Sys2Proof/Machine/Reserved.lean ====
section
/-! DEFINITION. The reserved opcodes (spec/30_encoding.md R60). -/

namespace Sys2Proof.Machine

/-- An offered command with a reserved opcode: accepted in `IDLE`, where it completes in the accepting step with
`INVALID_OP` (R60); an offer to a busy block in every other phase (R58). -/
def reservedOp (s : State) : State :=
  match s.ctl with
  | .idle => complete .invalidOp (latch s)
  | .encTx | .encSyncDrain | .encAllDrain | .peStart | .peCollect | .rtPredrain | .rtTx | .rtWait | .rtCopy | .rtFinal
  | .codec => refuseOffer s

/-- The reserved opcode 0x0. -/
def execReserved0 (s : State) : Host.Outcome State Fault Refusal := .next (reservedOp s)

/-- The reserved opcode 0xC. -/
def execReservedC (s : State) : Host.Outcome State Fault Refusal := .next (reservedOp s)

/-- The reserved opcode 0xD. -/
def execReservedD (s : State) : Host.Outcome State Fault Refusal := .next (reservedOp s)

/-- The reserved opcode 0xE. -/
def execReservedE (s : State) : Host.Outcome State Fault Refusal := .next (reservedOp s)

/-- The reserved opcode 0xF. -/
def execReservedF (s : State) : Host.Outcome State Fault Refusal := .next (reservedOp s)

end Sys2Proof.Machine
end

