-- ==== Sys2Proof/Machine/Dispatch.lean ====
section
/-! DEFINITION. The meaning of each instruction, one arm for each constructor of `Instr`. -/

namespace Sys2Proof.Machine

/-- One step of the block under instruction `i`. For a command: its acceptance when the Controller is idle, otherwise
the step of the phase the Controller is in. For a frame: its transmission. -/
def exec (i : Instr) (s : State) : Host.Outcome State Fault Refusal :=
  match i with
  | .writeFloat addr f => Sys2Proof.Machine.execWriteFloat addr f s
  | .writeInt16 addr v => Sys2Proof.Machine.execWriteInt16 addr v s
  | .writeString maxLen addr tlen => Sys2Proof.Machine.execWriteString maxLen addr tlen s
  | .setBuzzer on => Sys2Proof.Machine.execSetBuzzer on s
  | .switchPage page => Sys2Proof.Machine.execSwitchPage page s
  | .appendCurvePoint ch => Sys2Proof.Machine.execAppendCurvePoint ch s
  | .clearCurve => Sys2Proof.Machine.execClearCurve s
  | .pollEvent => Sys2Proof.Machine.execPollEvent s
  | .readText maxLength addr timeout => Sys2Proof.Machine.execReadText maxLength addr timeout s
  | .mergeAddress hi lo => Sys2Proof.Machine.execMergeAddress hi lo s
  | .splitAddress addr => Sys2Proof.Machine.execSplitAddress addr s
  | .reserved0 => Sys2Proof.Machine.execReserved0 s
  | .reservedC => Sys2Proof.Machine.execReservedC s
  | .reservedD => Sys2Proof.Machine.execReservedD s
  | .reservedE => Sys2Proof.Machine.execReservedE s
  | .reservedF => Sys2Proof.Machine.execReservedF s
  | .frameWriteFloat addr f => Sys2Proof.Machine.execFrameWriteFloat addr f s
  | .frameWriteInt16 addr v => Sys2Proof.Machine.execFrameWriteInt16 addr v s
  | .frameWriteString addr data => Sys2Proof.Machine.execFrameWriteString addr data s
  | .frameSetBuzzer on => Sys2Proof.Machine.execFrameSetBuzzer on s
  | .frameSwitchPage page => Sys2Proof.Machine.execFrameSwitchPage page s
  | .frameAppendCurvePoint ch => Sys2Proof.Machine.execFrameAppendCurvePoint ch s
  | .frameClearCurve => Sys2Proof.Machine.execFrameClearCurve s
  | .frameReadTextRequest addr maxLength => Sys2Proof.Machine.execFrameReadTextRequest addr maxLength s

end Sys2Proof.Machine
end

