-- ==== Sys2Proof/Machine/Control.lean ====
section
/-! DEFINITION. The four agents' steps (spec/00_scope.md R5), and how an encoded instruction is placed for the next step. -/

namespace Sys2Proof.Machine

/-- A Host write to `GO` (spec/30_encoding.md R58): the staged command is accepted in `IDLE`, refused otherwise. -/
def offer (s : State) : Host.Outcome State Fault Refusal :=
  match s.ctl with
  | .idle => exec (stagedInstr s.staging) s
  | .encTx | .encSyncDrain | .encAllDrain | .peStart | .peCollect | .rtPredrain | .rtTx | .rtWait | .rtCopy | .rtFinal
  | .codec => .next (refuseOffer s)

/-- A Controller step: none in `IDLE`, where only an offer begins an operation (R11, R17; log entry 7). -/
def controllerStep (s : State) : Host.Outcome State Fault Refusal :=
  match s.ctl with
  | .idle => .next s
  | .encTx | .encSyncDrain | .encAllDrain | .peStart | .peCollect | .rtPredrain | .rtTx | .rtWait | .rtCopy | .rtFinal
  | .codec => exec (currentInstr s) s

/-- A Host step (spec/60_exceptions.md R141). -/
def hostStep (a : HostAction) (s : State) : Host.Outcome State Fault Refusal :=
  match a with
  | .write offset value =>
    if offset = goOffset then offer s else .next (setStaging (stage offset value s.staging) s)
  | .read offset => .next (setHostData (hostRead offset s) s)
  | .reset => .next (resetInput s)

/-- A Link step (R142). -/
def linkStep (a : LinkAction) (s : State) : Host.Outcome State Fault Refusal :=
  match a with
  | .receive b => .next (receive b s)
  | .verdict v => .next (setVerdict v s)

/-- One move of one agent (R5, R11). -/
def act (e : Event) (s : State) : Host.Outcome State Fault Refusal :=
  match e with
  | .controller => controllerStep s
  | .host a => hostStep a s
  | .link a => linkStep a s
  | .clock => .next (tick s)

/-- Who moves next, and the state once that is read: the head of the agenda or, with none left, the free schedule at this
moment (R133; log entry 2). -/
def nextMove (s : State) : Event × State :=
  match s.agenda with
  | e :: rest => (e, { s with agenda := rest })
  | [] => (Config.schedule s.moment, { s with moment := s.moment + 1 })

/-- The operation that sends a frame, its fields the frame does not carry 0. -/
def frameCommand : Instr → Option Instr
  | .frameWriteFloat addr f => some (.writeFloat addr f)
  | .frameWriteInt16 addr v => some (.writeInt16 addr v)
  | .frameWriteString addr data => some (.writeString (BitVec.ofNat 8 data.length) addr (BitVec.ofNat 8 data.length))
  | .frameSetBuzzer on => some (.setBuzzer on)
  | .frameSwitchPage page => some (.switchPage page)
  | .frameAppendCurvePoint ch => some (.appendCurvePoint ch)
  | .frameClearCurve => some .clearCurve
  | .frameReadTextRequest addr m => some (.readText m addr 0)
  | .writeFloat _ _ | .writeInt16 _ _ | .writeString _ _ _ | .setBuzzer _ | .switchPage _ | .appendCurvePoint _
  | .clearCurve | .pollEvent | .readText _ _ _ | .mergeAddress _ _ | .splitAddress _
  | .reserved0 | .reservedC | .reservedD | .reservedE | .reservedF => none

/-- The text operand of a string frame; other instructions have none. -/
def frameText (i : Instr) (text : Vector Byte 255) : Vector Byte 255 :=
  match i with
  | .frameWriteString _ data => Vector.ofFn fun k => data.getD k.val 0
  | .writeFloat _ _ | .writeInt16 _ _ | .writeString _ _ _ | .setBuzzer _ | .switchPage _ | .appendCurvePoint _
  | .clearCurve | .pollEvent | .readText _ _ _ | .mergeAddress _ _ | .splitAddress _
  | .reserved0 | .reservedC | .reservedD | .reservedE | .reservedF
  | .frameWriteFloat _ _ | .frameWriteInt16 _ _ | .frameSetBuzzer _ | .frameSwitchPage _ | .frameAppendCurvePoint _
  | .frameClearCurve | .frameReadTextRequest _ _ => text

/-- The phase in which an operation transmits (spec/10_state.md R17). -/
def transmitPhase (i : Instr) : Phase :=
  if i.opcode = 0x9 then .rtTx else .encTx

/-- The staging registers with a descriptor in them (R54). -/
def stageDescriptor (d : BitVec 96) (g : Staging) : Staging :=
  { g with desc0 := d.extractLsb' 0 32, desc1 := d.extractLsb' 32 32, desc2 := d.extractLsb' 64 32 }

/-- The descriptor staged, the block idle, and the Host about to write `GO`. -/
def placeDescriptor (d : BitVec 96) (s : State) : State :=
  { s with
      ctl := .idle
      staging := stageDescriptor d s.staging
      agenda := .host (.write goOffset 0) :: s.agenda }

/-- The operation that sends frame `i` in the latch and in its transmit phase, and the Controller about to step. -/
def placeFrame (p : Params) (i command : Instr) (s : State) : State :=
  match encode p command with
  | .descriptor d =>
    { s with
        ctl := transmitPhase i
        op := latchOf { stageDescriptor d s.staging with textIn := frameText i s.op.text }
        agenda := .controller :: s.agenda }
  | .frame _ _ => s

/-- The instruction whose bits are `w` placed so that the next step runs it (log entry 3). -/
def placeWord (nbits w : Nat) (s : State) : State :=
  match decodeTableWord nbits w with
  | none => s
  | some i =>
    match frameCommand i with
    | none => placeDescriptor (BitVec.ofNat 96 w) s
    | some command => placeFrame s.cfg i command s

end Sys2Proof.Machine
end

