-- ==== Sys2Proof/Machine/Step.lean ====
section
/-! DEFINITION. One step of the machine: one move of one agent. -/

namespace Sys2Proof.Machine

/-- One step (spec/00_scope.md R5, R11): the next move is read, and its agent makes it. -/
def step (s : State) : Host.Outcome State Fault Refusal :=
  act (nextMove s).1 (nextMove s).2

/-- `s` with the instruction whose bits are `w` where the next step runs it: a command's descriptor staged and `GO` about
to be written, or a frame's operation in its transmit phase. -/
def State.withFetchWord (s : State) (nbits w : Nat) : State :=
  placeWord nbits w s

end Sys2Proof.Machine
end

