-- ==== Sys2Proof/Safety.lean ====
section
/-! DEFINITION. What the claims call a consistent state, and runs of chosen moves. -/

namespace Sys2Proof.Machine

/-! ### Runs -/

/-- The moves of a list, one after the other; it stops at the first fault or refusal. -/
def runEvents : List Event → State → Host.Outcome State Fault Refusal
  | [], s => .next s
  | e :: es, s =>
    match act e s with
    | .next t => runEvents es t
    | .fault r => .fault r
    | .refused r => .refused r

/-- `k` Controller steps with no other agent's step between them. -/
def controllerSteps (k : Nat) (s : State) : Host.Outcome State Fault Refusal :=
  runEvents (List.replicate k .controller) s

/-- A move of the Controller, the Link or the Clock: one that no Host makes. -/
def Event.ofBlockOrLink : Event → Bool
  | .controller | .link _ | .clock => true
  | .host _ => false

/-- How many of the moves are Controller steps. -/
def controllerCount (es : List Event) : Nat := es.count .controller

/-- A move that neither delivers a byte nor asserts reset: any Controller step, tick, verdict, Host read or Host write. -/
def Event.bringsNothing : Event → Bool
  | .controller | .clock | .link (.verdict _) | .host (.read _) | .host (.write _ _) => true
  | .link (.receive _) | .host .reset => false

/-! ### Results, as the rules write them -/

/-- After an accepted offer whose first phase is `c` (spec/30_encoding.md R58, R59). -/
def accepted (c : Phase) (s : State) : State :=
  { s with
      op :=
        { op := s.staging.desc0.extractLsb' 0 4, len8 := s.staging.desc0.extractLsb' 8 8
          addr := s.staging.desc0.extractLsb' 16 16, arg := s.staging.desc1
          hi := s.staging.desc2.extractLsb' 0 8, lo := s.staging.desc2.extractLsb' 8 8
          tlen := s.staging.desc2.extractLsb' 16 8, text := s.staging.textIn }
      ovr := false
      txFail := false
      trunc := false
      ctl := c }

/-- After a phase that transmits `frame` and goes on to phase `c` (spec/20_memory.md R42, spec/40_encoder.md R69): on
failure the wire gains a prefix, and the next verdict is a free value. -/
def sent (frame : List Byte) (c : Phase) (s : State) : State :=
  { s with
      wire := s.wire ++ (if s.txVerdict.ok = true then frame else frame.take s.txVerdict.sent)
      txFail := !s.txVerdict.ok
      txVerdict := Config.txVerdict s.draws
      draws := s.draws + 1
      ctl := c }

/-- The code an encoder operation that transmitted ends with (R72). -/
def encoderCode (s : State) : StatusCode :=
  if s.cfg.hardened = true ∧ s.txFail = true then .transportError
  else if s.cfg.hardened = true ∧ s.trunc = true then .truncated
  else .ok

/-- After `ENC_SYNC_DRAIN` (R70). -/
def syncDrained (s : State) : State :=
  { s with rx := s.rx.dropWhile (fun b => b == 0x5A || b == 0xA5), code := encoderCode s, ctl := .idle }

/-- After a poll that yields no Event with code `c` (spec/41_listener.md R90). -/
def withoutEvent (c : StatusCode) (s : State) : State :=
  { s with
      evt := { valid := false, start := 0, stop := 0, data := 0, cmd := 0, len := 0 }
      code := c
      ctl := .idle }

/-- The Event of a frame with the given length and body (spec/30_encoding.md R63, spec/41_listener.md R99): a field whose index
the body does not reach is 0. -/
def eventOf (n : Byte) (body : List Byte) : EventRegs :=
  { valid := true, cmd := body.getD 0 0, start := body.getD 1 0, stop := body.getD 2 0
    data := body.getD (n.toNat - 1) 0, len := n }

/-- The listener registers right after a length byte `n` is read (spec/41_listener.md R87). -/
def freshFrame (n : Byte) : ListenerRegs :=
  { state := .collectingPayload, n := n, idx := 0, cmd := 0, start := 0, stop := 0, data := 0, elapsed := 0 }

/-- The byte at body index `k` once the body bytes `bs` follow the `taken` ones, and `old` where they do not reach it. -/
def bodyByteAt (k taken : Nat) (bs : List Byte) (old : Byte) : Byte :=
  if taken < k then bs.getD (k - taken - 1) old else old

/-- The listener registers once the body bytes `bs` have been taken (R88): indices 1, 2, 3 and the last one are kept. -/
def withBody (bs : List Byte) (l : ListenerRegs) : ListenerRegs :=
  { l with
      idx := l.idx + BitVec.ofNat 8 bs.length
      cmd := bodyByteAt 1 l.idx.toNat bs l.cmd
      start := bodyByteAt 2 l.idx.toNat bs l.start
      stop := bodyByteAt 3 l.idx.toNat bs l.stop
      data := bodyByteAt l.n.toNat l.idx.toNat bs l.data }

/-- After a poll that publishes the frame whose registers are `l` (R89). -/
def published (l : ListenerRegs) (s : State) : State :=
  { s with
      lst := { l with state := .idle }
      evt := { valid := true, cmd := l.cmd, start := l.start, stop := l.stop, data := l.data, len := l.n }
      code := .ok
      ctl := .idle }

/-- `READ_TEXT`'s completion code (spec/42_text_reader.md R111). -/
def readerCode (s : State) : StatusCode :=
  if s.cfg.hardened = true ∧ s.txFail = true then .transportError
  else if s.cfg.hardened = true ∧ s.rt.timedOut = true then .readTimeout
  else .ok

/-- Is the instruction an encoder operation, or the frame of one (spec/40_encoder.md)? -/
def encoderInstr : Instr → Bool
  | .writeFloat _ _ | .writeInt16 _ _ | .writeString _ _ _ | .setBuzzer _ | .switchPage _ | .appendCurvePoint _
  | .clearCurve | .frameWriteFloat _ _ | .frameWriteInt16 _ _ | .frameWriteString _ _ | .frameSetBuzzer _
  | .frameSwitchPage _ | .frameAppendCurvePoint _ | .frameClearCurve => true
  | .pollEvent | .readText _ _ _ | .mergeAddress _ _ | .splitAddress _ | .reserved0 | .reservedC | .reservedD
  | .reservedE | .reservedF | .frameReadTextRequest _ _ => false

/-! ### The invariant -/

/-- The phases each operation uses (spec/10_state.md R17). -/
def phaseFits (c : Phase) (op : BitVec 4) : Bool :=
  match c with
  | .idle => true
  | .encTx => decide (1 ≤ op.toNat) && decide (op.toNat ≤ 7)
  | .encSyncDrain => decide (1 ≤ op.toNat) && decide (op.toNat ≤ 7) && decide (op.toNat ≠ 5)
  | .encAllDrain => decide (op.toNat = 5)
  | .peStart | .peCollect => decide (op.toNat = 8)
  | .rtPredrain | .rtTx | .rtWait | .rtCopy | .rtFinal => decide (op.toNat = 9)
  | .codec => decide (op.toNat = 0xA) || decide (op.toNat = 0xB)

/-- A phase of `READ_TEXT` (R17). -/
def readerPhase : Phase → Bool
  | .rtPredrain | .rtTx | .rtWait | .rtCopy | .rtFinal => true
  | .idle | .encTx | .encSyncDrain | .encAllDrain | .peStart | .peCollect | .codec => false

/-- A status code the legacy mode produces (spec/60_exceptions.md R123, column "mode"). -/
def legacyCode : StatusCode → Bool
  | .ok | .noEvent | .invalidArg | .invalidOp => true
  | .frameTimeout | .readTimeout | .transportError | .truncated => false

/-- The listener's part: when each `LST_STATE` is held and what a partial frame looks like (R22, R23, R86, R87, R93, R96,
R104). -/
structure ListenerConsistent (s : State) : Prop where
  awaiting : s.lst.state = .awaitingLength → s.ctl = .peStart
  starting : s.ctl = .peStart → s.lst.state ≠ .idle
  collecting : s.ctl = .peCollect → s.lst.state = .collectingPayload ∧ s.cfg.hardened = false
  held : s.lst.state = .collectingPayload → s.cfg.hardened = true ∨ s.ctl = .peCollect
  unfinished : s.lst.state = .collectingPayload → s.lst.idx.toNat < s.lst.n.toNat
  length : s.lst.state = .collectingPayload → isStray s.lst.n = false
  aborted : readerPhase s.ctl = true → s.lst.state = .idle

/-- The event registers hold a whole Event or nothing (R21, R89, R90). -/
structure EventConsistent (s : State) : Prop where
  empty : s.evt.valid = false → s.evt = EventRegs.zero
  length : s.evt.valid = true → isStray s.evt.len = false

/-- The text reader's registers in each of its phases (R104 to R110, R113). -/
structure ReaderConsistent (s : State) : Prop where
  fresh : s.ctl = .rtPredrain ∨ s.ctl = .rtTx → s.rt = ReaderRegs.zero ∧ s.textLen = 0
  waiting : s.ctl = .rtWait → s.rt.disc = 0 ∧ s.rt.reads = 0 ∧ s.rt.timedOut = false ∧ s.textLen = 0
  copying : s.ctl = .rtCopy → s.rt.hdr = true ∧ s.rt.timedOut = false ∧ s.textLen = s.rt.reads
  echoes : s.ctl = .rtCopy → s.rt.disc.toNat < 3 → s.rt.reads = 0
  bounded : s.ctl = .rtCopy → s.rt.disc.toNat = 3 → s.rt.reads.toNat < s.op.len8.toNat
  final : s.ctl = .rtFinal → s.textLen.toNat ≤ s.op.len8.toNat
  legacyTimeout : s.cfg.hardened = false → s.rt.timedOut = true → s.textLen = 0

/-- What every state that the block reaches satisfies. -/
structure State.Consistent (s : State) : Prop where
  phase : phaseFits s.ctl s.op.op = true
  listener : ListenerConsistent s
  event : EventConsistent s
  reader : ReaderConsistent s
  capacity : ∀ c, s.cfg.rxCapacity = some c → s.rx.length ≤ c
  code : s.cfg.hardened = false → legacyCode s.code = true
  trunc : s.trunc = true → s.op.op = 0x3

end Sys2Proof.Machine
end

