-- ==== Sys2Proof/Certificates/Slice0/Obligations.lean ====
section
/-! DEFINITION. The statements about the model, each from the rules of spec/ that its docstring names. -/

open Sys2Proof Sys2Proof.Machine

/-! ### Reset and acceptance -/

/-- R147, R32: the reset input gives every block register its reset value in one step, and changes neither `RX` nor
`WIRE`. -/
def Obligations.ResetInputRestoresEveryRegister : Prop :=
  ∀ s : State, ∃ t, act (.host .reset) s = .next t ∧
    t.ctl = .idle ∧ busy t = false ∧
    t.op = { op := 0, len8 := 0, addr := 0, arg := 0, hi := 0, lo := 0, tlen := 0, text := Vector.replicate 255 0 } ∧
    t.staging = { desc0 := 0, desc1 := 0, desc2 := 0, textIn := Vector.replicate 255 0 } ∧
    t.ovr = false ∧ t.code = .ok ∧
    t.evt = { valid := false, start := 0, stop := 0, data := 0, cmd := 0, len := 0 } ∧
    t.lst = { state := .idle, n := 0, idx := 0, cmd := 0, start := 0, stop := 0, data := 0, elapsed := 0 } ∧
    t.textLen = 0 ∧ t.textBuf = Vector.replicate 255 0 ∧
    t.rt = { hdr := false, respLen := 0, disc := 0, reads := 0, timedOut := false, elapsed := 0 } ∧
    t.txFail = false ∧ t.trunc = false ∧ t.mergeOut = 0 ∧ t.splitHi = 0 ∧ t.splitLo = 0 ∧ t.pageCache = 0 ∧
    t.rx = s.rx ∧ t.wire = s.wire ∧ t.cfg = s.cfg

/-- The machine the model starts from is one that the reset input leaves unchanged; that its `RX` and `WIRE` are empty is the
model's choice (log entry 5), for the reset input does not change them. -/
def Obligations.StartStateIsAResetState : Prop :=
  act (.host .reset) State.reset = .next State.reset ∧ statusWord State.reset = 0 ∧
    State.reset.rx = [] ∧ State.reset.wire = []

/-- R58, R59: an offer (a write of any value to `GO`) in `IDLE` latches the staged descriptor, clears `OVR`, `TX_FAIL` and
`TRUNC` and dispatches on the opcode, with the acceptance actions of R86 and R104; while `BUSY` it sets `OVR` and changes
nothing else. -/
def Obligations.OfferIsLatchedOrRefused : Prop :=
  ∀ (v : Word) (s : State),
    (s.ctl ≠ .idle → act (.host (.write 0x02C v)) s = .next { s with ovr := true }) ∧
    (s.ctl = .idle → ∃ t, act (.host (.write 0x02C v)) s = .next t ∧
      t.op = (accepted .idle s).op ∧ t.ovr = false ∧ t.txFail = false ∧ t.trunc = false ∧
      (1 ≤ t.op.op.toNat ∧ t.op.op.toNat ≤ 7 → t = accepted .encTx s) ∧
      (t.op.op.toNat = 8 → t = { accepted .peStart s with
        lst := if s.lst.state = .idle then { s.lst with state := .awaitingLength } else s.lst }) ∧
      (t.op.op.toNat = 9 → t = { accepted .rtPredrain s with
        textLen := 0
        rt := { hdr := false, respLen := 0, disc := 0, reads := 0, timedOut := false, elapsed := 0 }
        lst := if s.lst.state = .collectingPayload then ListenerRegs.zero else s.lst }) ∧
      (t.op.op.toNat = 10 ∨ t.op.op.toNat = 11 → t = accepted .codec s) ∧
      (t.op.op.toNat = 0 ∨ 12 ≤ t.op.op.toNat → t = { accepted .idle s with code := .invalidOp }))

/-- The operation that the Controller runs after an accepted offer is the one that was staged: the latched fields decode to the
same command as the staged descriptor (R54, R56 to R58). -/
def Obligations.LatchedCommandIsTheStagedOne : Prop :=
  ∀ (i : Instr) (s t : State), s.ctl = .idle → stagedInstr s.staging = i → exec i s = .next t →
    latchInstr t.op = i ∧ t.op.text = s.staging.textIn

/-- R60: a reserved opcode, once accepted, completes with `INVALID_OP` in the accepting step; only the acceptance's own writes
of R58 happen beside it. -/
def Obligations.ReservedOpcodesCompleteInvalid : Prop :=
  ∀ s : State, s.ctl = .idle →
    exec .reserved0 s = .next { accepted .idle s with code := .invalidOp } ∧
    exec .reservedC s = .next { accepted .idle s with code := .invalidOp } ∧
    exec .reservedD s = .next { accepted .idle s with code := .invalidOp } ∧
    exec .reservedE s = .next { accepted .idle s with code := .invalidOp } ∧
    exec .reservedF s = .next { accepted .idle s with code := .invalidOp }

/-! ### The encoder operations -/

/-- R74: `WRITE_FLOAT` in each of its phases. -/
def Obligations.WriteFloatRuns : Prop :=
  ∀ (addr : Addr) (f : Word) (s : State),
    (s.ctl = .idle → exec (.writeFloat addr f) s = .next (accepted .encTx s)) ∧
    (s.ctl = .encTx → exec (.writeFloat addr f) s = .next (sent
      [0x5A, 0xA5, 0x07, 0x82, addr.extractLsb' 8 8, addr.extractLsb' 0 8,
        f.extractLsb' 8 8, f.extractLsb' 0 8, f.extractLsb' 24 8, f.extractLsb' 16 8] .encSyncDrain s)) ∧
    (s.ctl = .encSyncDrain → exec (.writeFloat addr f) s = .next (syncDrained s))

/-- R76: `WRITE_INT16` in each of its phases. -/
def Obligations.WriteInt16Runs : Prop :=
  ∀ (addr : Addr) (v : BitVec 16) (s : State),
    (s.ctl = .idle → exec (.writeInt16 addr v) s = .next (accepted .encTx s)) ∧
    (s.ctl = .encTx → exec (.writeInt16 addr v) s = .next (sent
      [0x5A, 0xA5, 0x05, 0x82, addr.extractLsb' 8 8, addr.extractLsb' 0 8, v.extractLsb' 8 8, v.extractLsb' 0 8]
      .encSyncDrain s)) ∧
    (s.ctl = .encSyncDrain → exec (.writeInt16 addr v) s = .next (syncDrained s))

/-- R77, R78: `WRITE_STRING` in each of its phases: refused with `INVALID_ARG` and nothing else, or sent, cut or padded to
`maxLen` value bytes. -/
def Obligations.WriteStringRuns : Prop :=
  ∀ (m : Byte) (addr : Addr) (tlen : Byte) (s : State),
    (s.ctl = .idle → exec (.writeString m addr tlen) s = .next (accepted .encTx s)) ∧
    (s.ctl = .encTx → (252 < m.toNat ∨ m.toNat = 87 ∨ m.toNat = 162) →
      exec (.writeString m addr tlen) s = .next { s with code := .invalidArg, ctl := .idle }) ∧
    (s.ctl = .encTx → m.toNat ≤ 252 → m.toNat ≠ 87 → m.toNat ≠ 162 →
      exec (.writeString m addr tlen) s = .next { sent
        ([0x5A, 0xA5, BitVec.ofNat 8 (3 + m.toNat), 0x82, addr.extractLsb' 8 8, addr.extractLsb' 0 8]
          ++ s.op.text.toList.take (min tlen.toNat m.toNat)
          ++ List.replicate (m.toNat - min tlen.toNat m.toNat) 0xFF) .encSyncDrain s with
        trunc := decide (m.toNat < tlen.toNat) }) ∧
    (s.ctl = .encSyncDrain → exec (.writeString m addr tlen) s = .next (syncDrained s))

/-- R79: `SET_BUZZER` in each of its phases. -/
def Obligations.SetBuzzerRuns : Prop :=
  ∀ (on : Bool) (s : State),
    (s.ctl = .idle → exec (.setBuzzer on) s = .next (accepted .encTx s)) ∧
    (s.ctl = .encTx → exec (.setBuzzer on) s = .next (sent
      [0x5A, 0xA5, 0x05, 0x82, s.cfg.buzzerAddr.extractLsb' 8 8, s.cfg.buzzerAddr.extractLsb' 0 8, 0x00,
        if on = true then 0x01 else 0x00] .encSyncDrain s)) ∧
    (s.ctl = .encSyncDrain → exec (.setBuzzer on) s = .next (syncDrained s))

/-- R80 and R71: `SWITCH_PAGE` in each of its phases; its drain empties `RX` and writes `PAGE_CACHE`, whatever the verdict. -/
def Obligations.SwitchPageRuns : Prop :=
  ∀ (page : Byte) (s : State),
    (s.ctl = .idle → exec (.switchPage page) s = .next (accepted .encTx s)) ∧
    (s.ctl = .encTx → exec (.switchPage page) s = .next (sent
      ([0x5A, 0xA5, 0x07] ++ s.cfg.pagePrefix.toList ++ [page]) .encAllDrain s)) ∧
    (s.ctl = .encAllDrain → exec (.switchPage page) s = .next
      { s with rx := [], pageCache := page, code := encoderCode s, ctl := .idle })

/-- R82: `APPEND_CURVE_POINT` in each of its phases. -/
def Obligations.AppendCurvePointRuns : Prop :=
  ∀ (ch : Byte) (s : State),
    (s.ctl = .idle → exec (.appendCurvePoint ch) s = .next (accepted .encTx s)) ∧
    (s.ctl = .encTx → exec (.appendCurvePoint ch) s = .next (sent
      ([0x5A, 0xA5, 0x0B] ++ (s.cfg.curveAppendBody[ch.toNat]'(ch.isLt)).toList) .encSyncDrain s)) ∧
    (s.ctl = .encSyncDrain → exec (.appendCurvePoint ch) s = .next (syncDrained s))

/-- R84: `CLEAR_CURVE` in each of its phases. -/
def Obligations.ClearCurveRuns : Prop :=
  ∀ s : State,
    (s.ctl = .idle → exec .clearCurve s = .next (accepted .encTx s)) ∧
    (s.ctl = .encTx → exec .clearCurve s = .next (sent
      ([0x5A, 0xA5, 0x05] ++ s.cfg.curveClearBody.toList) .encSyncDrain s)) ∧
    (s.ctl = .encSyncDrain → exec .clearCurve s = .next (syncDrained s))

/-- The value bytes of a successfully sent float frame, with their halves swapped back, are the pattern `F`, and the bytes before
them name the address (R75). That the rule counts the frame's bytes from one is the model's reading (log entry 13). -/
def Obligations.FloatFrameRoundTrips : Prop :=
  ∀ (addr : Addr) (f : Word) (s t : State), s.ctl = .encTx → s.txVerdict.ok = true →
    exec (.writeFloat addr f) s = .next t →
    ∃ b1 b2 b3 b4 b5 b6 w7 w8 w9 w10 : Byte, t.wire = s.wire ++ [b1, b2, b3, b4, b5, b6, w7, w8, w9, w10] ∧
      b5 ++ b6 = addr ∧ w9 ++ w10 ++ w7 ++ w8 = f

/-- R70: the post-write drain removes exactly the run of sync bytes at the head of `RX`: what it removes is all sync bytes,
what it leaves is empty or begins with another byte. -/
def Obligations.PostWriteDrainRemovesSyncRun : Prop :=
  ∀ (i : Instr) (s t : State), encoderInstr i = true → (∀ page, i ≠ .switchPage page) → s.ctl = .encSyncDrain →
    latchInstr s.op = i → exec i s = .next t →
    t.ctl = .idle ∧ t.code = encoderCode s ∧ t.wire = s.wire ∧
    ∃ run, s.rx = run ++ t.rx ∧ (∀ b ∈ run, b = 0x5A ∨ b = 0xA5) ∧
      (∀ b rest, t.rx = b :: rest → b ≠ 0x5A ∧ b ≠ 0xA5)

/-- R73: no encoder outcome stops the Controller. However Link and Clock steps fall between, two Controller steps after the
accepting one end the operation; one does when `WRITE_STRING` is refused. -/
def Obligations.EncoderCompletesInTwoSteps : Prop :=
  ∀ (es : List Event) (s : State), s.ctl = .encTx → 1 ≤ s.op.op.toNat → s.op.op.toNat ≤ 7 →
    (∀ e ∈ es, e.ofBlockOrLink = true) →
    controllerCount es = (if s.op.op.toNat = 3 ∧ stringArgsValid s.op.len8 = false then 1 else 2) →
    ∃ t, runEvents es s = .next t ∧ t.ctl = .idle ∧ s.wire <+: t.wire

/-- No encoder operation and no encoder frame writes `EVT_*`, `LST_*`, `TEXT_*`, `RT_*`, `MERGE_OUT` or `SPLIT_*` (R68); nor does
it write the staging registers, the configuration or what the Host last read. What it does in a phase of another operation is
the model's choice (log entries 7 and 8). -/
def Obligations.EncoderLeavesOtherUnitsAlone : Prop :=
  ∀ (i : Instr) (s : State), encoderInstr i = true → ∃ t, exec i s = .next t ∧
    t.evt = s.evt ∧ t.lst = s.lst ∧ t.textLen = s.textLen ∧ t.textBuf = s.textBuf ∧ t.rt = s.rt ∧
    t.mergeOut = s.mergeOut ∧ t.splitHi = s.splitHi ∧ t.splitLo = s.splitLo ∧
    t.staging = s.staging ∧ t.cfg = s.cfg ∧ t.hostData = s.hostData ∧ t.agenda = s.agenda ∧ t.moment = s.moment ∧
    ((∀ page, i ≠ .switchPage page) → t.pageCache = s.pageCache)

/-- A run of an encoder operation whose write succeeds, from the offer to its completion with no other agent moving in between:
the wire gains exactly the frame of the opcode table's row; of `RX` the sync run at the head is gone, or all of it after
`SWITCH_PAGE`, which also writes the page cache; and the code is `OK` unless the hardened mode reports a truncation (R58, R61,
R62, R69 to R72). That a frame is an instruction of its own is the model's choice (log entry 8). -/
def Obligations.EncoderRunSendsItsFrame : Prop :=
  ∀ (i frame : Instr) (op : BitVec 4) (bytes : List Byte) (v : Word) (s : State), s.ctl = .idle →
    stagedInstr s.staging = i → latchFrame (latchOf s.staging) = some frame →
    encoderInstr frame = true → encode s.cfg frame = .frame op bytes → s.txVerdict.ok = true →
    ∃ t, runEvents [.host (.write 0x02C v), .controller, .controller] s = .next t ∧
      t.ctl = .idle ∧ t.wire = s.wire ++ bytes ∧
      t.rx = (if i.opcode = 0x5 then [] else s.rx.dropWhile (fun b => b == 0x5A || b == 0xA5)) ∧
      t.pageCache = (if i.opcode = 0x5 then s.staging.desc1.extractLsb' 0 8 else s.pageCache) ∧
      t.code = (if s.cfg.hardened = true ∧ i.opcode = 0x3 ∧ t.op.len8.toNat < t.op.tlen.toNat
                then .truncated else .ok)

/-! ### The listener -/

/-- R86 and R104: acceptance of `POLL_EVENT` keeps a partial frame that an earlier hardened poll left; acceptance of `READ_TEXT`
aborts it and clears the reader. -/
def Obligations.PollAndReadAreAccepted : Prop :=
  ∀ s : State, s.ctl = .idle →
    exec .pollEvent s = .next { accepted .peStart s with
      lst := if s.lst.state = .idle then { s.lst with state := .awaitingLength } else s.lst } ∧
    ∀ (m : Byte) (addr : Addr) (T : Word), exec (.readText m addr T) s = .next { accepted .rtPredrain s with
      textLen := 0
      rt := { hdr := false, respLen := 0, disc := 0, reads := 0, timedOut := false, elapsed := 0 }
      lst := if s.lst.state = .collectingPayload
             then { state := .idle, n := 0, idx := 0, cmd := 0, start := 0, stop := 0, data := 0, elapsed := 0 }
             else s.lst }

/-- R87 and R92: the legacy `PE_START`. An empty stream or a stray byte (0x5A, 0xA5, 0x00), which alone is consumed, ends the
poll with `NO_EVENT`; any other byte is the length and collecting begins. -/
def Obligations.LegacyPollReadsLength : Prop :=
  ∀ s : State, s.ctl = .peStart → s.cfg.hardened = false →
    (s.rx = [] → exec .pollEvent s = .next (withoutEvent .noEvent { s with lst := { s.lst with state := .idle } })) ∧
    (∀ b rest, s.rx = b :: rest → (b = 0x5A ∨ b = 0xA5 ∨ b = 0x00) →
      exec .pollEvent s = .next (withoutEvent .noEvent { s with rx := rest, lst := { s.lst with state := .idle } })) ∧
    (∀ b rest, s.rx = b :: rest → b ≠ 0x5A → b ≠ 0xA5 → b ≠ 0x00 →
      exec .pollEvent s = .next { s with
        rx := rest, ctl := .peCollect
        lst := { state := .collectingPayload, n := b, idx := 0, cmd := 0, start := 0, stop := 0, data := 0,
                 elapsed := 0 } })

/-- The legacy `PE_COLLECT` takes one body byte a step, and publishes with the last one (R88, R89, R93). With an empty stream it
is held; that a held move is one that changes nothing is the model's reading (log entry 7). -/
def Obligations.LegacyPollCollectsOneByte : Prop :=
  ∀ s : State, s.ctl = .peCollect →
    (s.rx = [] → exec .pollEvent s = .next s) ∧
    (∀ c rest, s.rx = c :: rest → ∃ t, exec .pollEvent s = .next t ∧ t.rx = rest ∧ t.lst.idx = s.lst.idx + 1 ∧
      t.lst.cmd = (if s.lst.idx + 1 = 1 then c else s.lst.cmd) ∧
      t.lst.start = (if s.lst.idx + 1 = 2 then c else s.lst.start) ∧
      t.lst.stop = (if s.lst.idx + 1 = 3 then c else s.lst.stop) ∧
      t.lst.data = (if s.lst.idx + 1 = s.lst.n then c else s.lst.data) ∧
      t.lst.n = s.lst.n ∧
      (s.lst.idx + 1 ≠ s.lst.n → t.ctl = .peCollect ∧ t.evt = s.evt ∧ t.code = s.code ∧ t.lst.state = s.lst.state) ∧
      (s.lst.idx + 1 = s.lst.n → t.ctl = .idle ∧ t.code = .ok ∧ t.lst.state = .idle ∧
        t.evt = { valid := true, cmd := t.lst.cmd, start := t.lst.start, stop := t.lst.stop, data := t.lst.data,
                  len := t.lst.n }))

/-- The legacy hang of R94. While no byte arrives and no reset is asserted, no move of any agent leaves `PE_COLLECT`: `BUSY` stays
1 and the collected bytes stay. That a held Controller's move changes nothing is the model's reading (log entry 7). -/
def Obligations.LegacyPollHangs : Prop :=
  ∀ (es : List Event) (s : State), s.ctl = .peCollect → s.op.op = 0x8 → s.cfg.hardened = false → s.rx = [] →
    (∀ e ∈ es, e.bringsNothing = true) →
    ∃ t, runEvents es s = .next t ∧ t.ctl = .peCollect ∧ busy t = true ∧ t.rx = [] ∧ t.lst = s.lst ∧ t.evt = s.evt ∧
      t.code = s.code

/-- R95, R99, R101: a legacy poll whose whole frame is buffered consumes exactly the length byte and the N body bytes, one
Controller step each, and yields the Event of the frame, for every length from 1 to 255 that is no sync value. -/
def Obligations.LegacyPollDecodesBufferedFrame : Prop :=
  ∀ (n : Byte) (body rest : List Byte) (s : State), s.ctl = .peStart → s.op.op = 0x8 → s.cfg.hardened = false →
    s.lst.state = .awaitingLength → n ≠ 0x5A → n ≠ 0xA5 → n ≠ 0x00 → body.length = n.toNat →
    s.rx = n :: body ++ rest →
    ∃ t, controllerSteps (1 + n.toNat) s = .next t ∧ t.ctl = .idle ∧ t.code = .ok ∧ t.rx = rest ∧
      t.evt = eventOf n body ∧ t.lst.state = .idle ∧ t.wire = s.wire ∧ t.textLen = s.textLen ∧ t.textBuf = s.textBuf

/-- A hardened poll that finds the whole frame buffered yields its Event in one step (R96, R99, R101). So does one that resumes
a partial frame whose missing bytes are buffered: the Event is that of the bytes kept and the bytes taken, whatever
`LST_ELAPSED` is, for a complete frame wins over its deadline (R88, R89, R96, R132). -/
def Obligations.HardenedPollDecodesBufferedFrame : Prop :=
  ∀ (n : Byte) (body rest : List Byte) (s : State), s.ctl = .peStart → s.cfg.hardened = true →
    (s.lst.state = .awaitingLength → n ≠ 0x5A → n ≠ 0xA5 → n ≠ 0x00 → body.length = n.toNat →
      s.rx = n :: body ++ rest →
      ∃ t, exec .pollEvent s = .next t ∧ t.ctl = .idle ∧ t.code = .ok ∧ t.rx = rest ∧ t.evt = eventOf n body ∧
        t.lst.state = .idle ∧ t.wire = s.wire ∧ t.textLen = s.textLen ∧ t.textBuf = s.textBuf) ∧
    (s.lst.state = .collectingPayload → s.lst.idx.toNat + body.length = s.lst.n.toNat → s.rx = body ++ rest →
      exec .pollEvent s = .next { published (withBody body s.lst) s with rx := rest })

/-- A hardened poll is one step and is never held (R96, R98): it ends with `OK` and an Event, or with `NO_EVENT` or
`FRAME_TIMEOUT` and none. Awaiting a length, it consumes nothing of an empty stream and exactly the one stray byte (0x5A, 0xA5,
0x00) at the head of another, and ends with `NO_EVENT` and `LST_STATE` = `Idle` (R87, R101). That a `PE_START` with `LST_STATE`
= `Idle`, which no run reaches, goes on to collect is the model's reading (log entry 11). -/
def Obligations.HardenedPollNeverHolds : Prop :=
  ∀ s : State, s.ctl = .peStart → s.cfg.hardened = true →
    (∃ t, exec .pollEvent s = .next t ∧ t.ctl = .idle ∧
      ((t.code = .ok ∧ t.evt.valid = true ∧ t.lst.state = .idle) ∨
       (t.code = .noEvent ∧ t.evt = { valid := false, start := 0, stop := 0, data := 0, cmd := 0, len := 0 }) ∨
       (t.code = .frameTimeout ∧ t.evt = { valid := false, start := 0, stop := 0, data := 0, cmd := 0, len := 0 } ∧
        t.lst = { state := .idle, n := 0, idx := 0, cmd := 0, start := 0, stop := 0, data := 0, elapsed := 0 }))) ∧
    (s.lst.state = .awaitingLength → s.rx = [] →
      exec .pollEvent s = .next (withoutEvent .noEvent { s with lst := { s.lst with state := .idle } })) ∧
    (s.lst.state = .awaitingLength → ∀ b rest, s.rx = b :: rest → (b = 0x5A ∨ b = 0xA5 ∨ b = 0x00) →
      exec .pollEvent s = .next (withoutEvent .noEvent { s with rx := rest, lst := { s.lst with state := .idle } }))

/-- A hardened poll whose frame stays incomplete takes every buffered byte. At or after the deadline it discards the frame and
ends with `FRAME_TIMEOUT`; before it, the frame is kept with every byte it has taken and the poll ends with `NO_EVENT` (R88, R96,
R126). The same of a frame whose length this poll reads: its elapsed time is 0, so it is discarded only if `FRAME_TIMEOUT` is 0
(R87, R96). -/
def Obligations.HardenedPartialFrameTimesOut : Prop :=
  ∀ s : State, s.ctl = .peStart → s.cfg.hardened = true →
    (s.lst.state = .collectingPayload → s.lst.idx.toNat + s.rx.length < s.lst.n.toNat →
      (s.cfg.frameTimeout.toNat ≤ s.lst.elapsed.toNat →
        exec .pollEvent s = .next (withoutEvent .frameTimeout { s with rx := [], lst :=
          { state := .idle, n := 0, idx := 0, cmd := 0, start := 0, stop := 0, data := 0, elapsed := 0 } })) ∧
      (s.lst.elapsed.toNat < s.cfg.frameTimeout.toNat →
        exec .pollEvent s = .next (withoutEvent .noEvent { s with rx := [], lst := withBody s.rx s.lst }))) ∧
    (∀ (n : Byte) (body : List Byte), s.lst.state = .awaitingLength → n ≠ 0x5A → n ≠ 0xA5 → n ≠ 0x00 →
      s.rx = n :: body → body.length < n.toNat →
      (s.cfg.frameTimeout = 0 →
        exec .pollEvent s = .next (withoutEvent .frameTimeout { s with rx := [], lst :=
          { state := .idle, n := 0, idx := 0, cmd := 0, start := 0, stop := 0, data := 0, elapsed := 0 } })) ∧
      (s.cfg.frameTimeout ≠ 0 →
        exec .pollEvent s = .next (withoutEvent .noEvent { s with rx := [], lst := withBody body (freshFrame n) })))

/-- What `POLL_EVENT` leaves alone in every phase and mode: `WIRE`, the text, the reader, the codec results, the page cache,
the staging registers and the configuration; and it consumes bytes only at the head of `RX` (R21, R85, R88, R95). In a phase of
another operation it is an offer to a busy block, which is the model's reading (log entry 7). -/
def Obligations.PollLeavesOtherUnitsAlone : Prop :=
  ∀ s : State, ∃ t, exec .pollEvent s = .next t ∧ t.rx <:+ s.rx ∧ t.wire = s.wire ∧
    t.textLen = s.textLen ∧ t.textBuf = s.textBuf ∧ t.rt = s.rt ∧ t.mergeOut = s.mergeOut ∧ t.splitHi = s.splitHi ∧
    t.splitLo = s.splitLo ∧ t.pageCache = s.pageCache ∧ t.staging = s.staging ∧ t.cfg = s.cfg ∧
    t.txVerdict = s.txVerdict ∧ t.draws = s.draws ∧ t.hostData = s.hostData ∧ t.agenda = s.agenda ∧ t.moment = s.moment ∧
    (s.ctl ≠ .idle → t.op = s.op ∧ t.txFail = s.txFail ∧ t.trunc = s.trunc) ∧
    (s.ctl = .peStart ∨ s.ctl = .peCollect → t.ovr = s.ovr)

/-! ### The text reader -/

/-- R105 and R106: the stream is emptied, then the request is sent and the deadline starts; a hardened reader whose request
failed skips the wait. -/
def Obligations.ReadDrainsThenRequests : Prop :=
  ∀ (m : Byte) (addr : Addr) (T : Word) (s : State),
    (s.ctl = .rtPredrain → exec (.readText m addr T) s = .next { s with rx := [], ctl := .rtTx }) ∧
    (s.ctl = .rtTx → exec (.readText m addr T) s = .next { sent
      [0x5A, 0xA5, 0x04, 0x83, addr.extractLsb' 8 8, addr.extractLsb' 0 8, m]
      (if s.cfg.hardened = true ∧ s.txVerdict.ok = false then .rtFinal else .rtWait) s with
      rt := { s.rt with elapsed := 0 } })

/-- `RT_WAIT` (R107). The deadline comes first, even with data buffered; then the header search with three bytes, then the copy
with M + 2; otherwise the phase is held, which is a move that changes nothing in the model's reading (log entry 7). -/
def Obligations.ReadWaits : Prop :=
  ∀ (m : Byte) (addr : Addr) (T : Word) (s : State), s.ctl = .rtWait →
    (T.toNat ≤ s.rt.elapsed.toNat →
      exec (.readText m addr T) s = .next { s with rt := { s.rt with timedOut := true }, ctl := .rtFinal }) ∧
    (s.rt.elapsed.toNat < T.toNat → s.rt.hdr = false → 3 ≤ s.rx.length →
      exec (.readText m addr T) s = .next (seekHeader s)) ∧
    (s.rt.elapsed.toNat < T.toNat → s.rt.hdr = true → m.toNat + 2 ≤ s.rx.length →
      exec (.readText m addr T) s = .next { s with ctl := .rtCopy }) ∧
    (s.rt.elapsed.toNat < T.toNat → s.rt.hdr = false → s.rx.length < 3 → exec (.readText m addr T) s = .next s) ∧
    (s.rt.elapsed.toNat < T.toNat → s.rt.hdr = true → s.rx.length < m.toNat + 2 →
      exec (.readText m addr T) s = .next s)

/-- R108: one seek step consumes one byte, or two, or three with the header found; a second byte that is not 0xA5 is consumed
even if it is 0x5A. -/
def Obligations.ReadSeeksHeader : Prop :=
  ∀ (m : Byte) (addr : Addr) (T : Word) (b0 b1 b2 : Byte) (rest : List Byte) (s : State), s.ctl = .rtWait →
    s.rt.elapsed.toNat < T.toNat → s.rt.hdr = false → s.rx = b0 :: b1 :: b2 :: rest →
    exec (.readText m addr T) s = .next (
      if b0 ≠ 0x5A then { s with rx := b1 :: b2 :: rest }
      else if b1 ≠ 0xA5 then { s with rx := b2 :: rest }
      else { s with rx := rest, rt := { s.rt with respLen := b2, hdr := true } })

/-- `RT_COPY` (R109). Three echo bytes are discarded; then a byte is copied, or 0xFF ends the copy; with `RX` empty the hardened
reader ends at its deadline and the phase is held otherwise, which is a move that changes nothing in the model's reading (log
entry 7). -/
def Obligations.ReadCopiesOneByte : Prop :=
  ∀ (m : Byte) (addr : Addr) (T : Word) (s : State), s.ctl = .rtCopy →
    (∀ c rest, s.rx = c :: rest → s.rt.disc.toNat < 3 →
      exec (.readText m addr T) s = .next { s with
        rx := rest, rt := { s.rt with disc := s.rt.disc + 1 }
        ctl := if s.rt.disc.toNat = 2 ∧ m = 0 then .rtFinal else .rtCopy }) ∧
    (∀ rest, s.rx = 0xFF :: rest → s.rt.disc.toNat = 3 →
      exec (.readText m addr T) s = .next { s with
        rx := rest, rt := { s.rt with reads := s.rt.reads + 1 }, ctl := .rtFinal }) ∧
    (∀ c rest, s.rx = c :: rest → s.rt.disc.toNat = 3 → c ≠ 0xFF → s.textLen.toNat < 255 →
      exec (.readText m addr T) s = .next { s with
        rx := rest, rt := { s.rt with reads := s.rt.reads + 1 }
        textBuf := s.textBuf.setIfInBounds s.textLen.toNat c, textLen := s.textLen + 1
        ctl := if s.rt.reads + 1 = m then .rtFinal else .rtCopy }) ∧
    (s.rx = [] → s.cfg.hardened = true → T.toNat ≤ s.rt.elapsed.toNat →
      exec (.readText m addr T) s = .next { s with rt := { s.rt with timedOut := true }, ctl := .rtFinal }) ∧
    (s.rx = [] → (s.cfg.hardened = false ∨ s.rt.elapsed.toNat < T.toNat) → exec (.readText m addr T) s = .next s)

/-- R110 and R111: `RT_FINAL` empties the stream and completes. -/
def Obligations.ReadFinishes : Prop :=
  ∀ (m : Byte) (addr : Addr) (T : Word) (s : State), s.ctl = .rtFinal →
    exec (.readText m addr T) s = .next { s with rx := [], code := readerCode s, ctl := .idle }

/-- R109, R112, R116: from the start of the copy with the response buffered, the copy pops the three echoes and
R = min(M, k + 1) data bytes, k being the position of the first 0xFF, and leaves in the text buffer exactly the bytes before
it, at most M of them. -/
def Obligations.CopyTakesTextUpToSentinel : Prop :=
  ∀ (e1 e2 e3 : Byte) (txt rest : List Byte) (s : State), s.ctl = .rtCopy → s.op.op = 0x9 → s.rt.disc = 0 →
    s.rt.reads = 0 → s.textLen = 0 → s.rx = e1 :: e2 :: e3 :: (txt ++ rest) →
    (∀ b ∈ txt, b ≠ 0xFF) →
    ((txt.length = s.op.len8.toNat) ∨ (txt.length < s.op.len8.toNat ∧ ∃ r, rest = 0xFF :: r)) →
    ∃ t, controllerSteps (3 + min s.op.len8.toNat (txt.length + 1)) s = .next t ∧ t.ctl = .rtFinal ∧
      t.textLen.toNat = txt.length ∧ t.textBuf.toList.take txt.length = txt ∧ t.rt.timedOut = s.rt.timedOut ∧
      t.rx = (if txt.length = s.op.len8.toNat then rest else rest.tail) ∧ t.wire = s.wire

/-- R113: a legacy timeout completes with `OK` and an empty text, in every state that the block reaches. -/
def Obligations.LegacyTimeoutIsEmpty : Prop :=
  ∀ (m : Byte) (addr : Addr) (T : Word) (s : State), s.Consistent → s.cfg.hardened = false → s.ctl = .rtFinal →
    s.rt.timedOut = true → ∃ t, exec (.readText m addr T) s = .next t ∧ t.ctl = .idle ∧ t.code = .ok ∧ t.textLen = 0

/-- A hardened `READ_TEXT` whose deadline has elapsed completes within M + 5 Controller steps, whatever the stream holds and
however Link and Clock steps fall between (R115). That a Controller move after the completion changes nothing is the model's
reading (log entry 7). -/
def Obligations.HardenedReadIsBounded : Prop :=
  ∀ (es : List Event) (s : State), s.Consistent → s.cfg.hardened = true →
    (s.ctl = .rtWait ∨ s.ctl = .rtCopy ∨ s.ctl = .rtFinal) → s.op.arg.toNat ≤ s.rt.elapsed.toNat →
    (∀ e ∈ es, e.ofBlockOrLink = true) → s.op.len8.toNat + 5 ≤ controllerCount es →
    ∃ t, runEvents es s = .next t ∧ t.ctl = .idle

/-- A legacy copy that runs out of bytes is held for as long as no byte arrives and no reset is asserted, whatever the tick count
(R156). That a held Controller's move changes nothing is the model's reading (log entry 7). -/
def Obligations.LegacyCopyIsHeld : Prop :=
  ∀ (es : List Event) (s : State), s.ctl = .rtCopy → s.op.op = 0x9 → s.cfg.hardened = false → s.rx = [] →
    (∀ e ∈ es, e.bringsNothing = true) →
    ∃ t, runEvents es s = .next t ∧ t.ctl = .rtCopy ∧ t.rx = [] ∧ t.textLen = s.textLen ∧ t.textBuf = s.textBuf ∧
      t.rt.reads = s.rt.reads

/-- What `READ_TEXT` leaves alone in every phase and mode: the event registers, the codec results, the page cache, the staging
registers, the configuration, and, once accepted, the listener (R25, R26, R104 to R110, R117). In a phase of another operation it
is an offer to a busy block, which is the model's reading (log entry 7). -/
def Obligations.ReaderLeavesOtherUnitsAlone : Prop :=
  ∀ (m : Byte) (addr : Addr) (T : Word) (s : State), ∃ t, exec (.readText m addr T) s = .next t ∧
    t.rx <:+ s.rx ∧ t.evt = s.evt ∧ t.mergeOut = s.mergeOut ∧ t.splitHi = s.splitHi ∧ t.splitLo = s.splitLo ∧
    t.pageCache = s.pageCache ∧ t.staging = s.staging ∧ t.cfg = s.cfg ∧ t.hostData = s.hostData ∧
    t.agenda = s.agenda ∧ t.moment = s.moment ∧
    (s.ctl ≠ .rtTx → t.wire = s.wire ∧ t.txVerdict = s.txVerdict ∧ t.draws = s.draws) ∧
    (s.ctl ≠ .idle → t.lst = s.lst ∧ t.op = s.op ∧ t.trunc = s.trunc) ∧ (s.ctl ≠ .rtFinal → t.code = s.code) ∧
    (s.ctl ≠ .rtCopy → t.textBuf = s.textBuf) ∧
    (∀ k : Nat, k ≠ s.textLen.toNat → t.textBuf[k]? = s.textBuf[k]?) ∧
    (readerPhase s.ctl = true → t.ovr = s.ovr)

/-! ### The codec -/

/-- R118 and R119: `MERGE_ADDRESS` writes `MERGE_OUT`, `SPLIT_ADDRESS` writes `SPLIT_HI` and `SPLIT_LO`, and neither writes
anything but its result and the status. -/
def Obligations.CodecOperationsRun : Prop :=
  (∀ (hi lo : Byte) (s : State),
    (s.ctl = .idle → exec (.mergeAddress hi lo) s = .next (accepted .codec s)) ∧
    (s.ctl = .codec → exec (.mergeAddress hi lo) s = .next
      { s with mergeOut := hi ++ lo, code := .ok, ctl := .idle })) ∧
  (∀ (addr : Addr) (s : State),
    (s.ctl = .idle → exec (.splitAddress addr) s = .next (accepted .codec s)) ∧
    (s.ctl = .codec → exec (.splitAddress addr) s = .next { s with
      splitHi := addr.extractLsb' 8 8, splitLo := addr.extractLsb' 0 8, code := .ok, ctl := .idle }))

/-- R120: the codec's laws, and each operation keeps the other's result. -/
def Obligations.CodecRoundTrips : Prop :=
  (∀ (a : Addr) (s t : State), s.ctl = .codec → exec (.splitAddress a) s = .next t → ∀ u v : State, u.ctl = .codec →
    exec (.mergeAddress t.splitHi t.splitLo) u = .next v → v.mergeOut = a) ∧
  (∀ (h l : Byte) (s t : State), s.ctl = .codec → exec (.mergeAddress h l) s = .next t → ∀ u v : State,
    u.ctl = .codec → exec (.splitAddress t.mergeOut) u = .next v → v.splitHi = h ∧ v.splitLo = l) ∧
  (∀ (h l : Byte) (s t : State), exec (.mergeAddress h l) s = .next t → t.splitHi = s.splitHi ∧ t.splitLo = s.splitLo) ∧
  (∀ (a : Addr) (s t : State), exec (.splitAddress a) s = .next t → t.mergeOut = s.mergeOut)

/-- No codec operation touches `RX`, `WIRE` or any register but its results and the status (the introduction of
spec/43_address_codec.md), save that in `IDLE` its acceptance writes the latch and clears `OVR`, `TX_FAIL` and `TRUNC` as that of
every operation does (R58). In a phase of another operation it is an offer to a busy block, which is the model's reading (log
entry 7). -/
def Obligations.CodecLeavesOtherUnitsAlone : Prop :=
  ∀ (i : Instr) (s : State), ((∃ h l, i = .mergeAddress h l) ∨ (∃ a, i = .splitAddress a)) →
    ∃ t, exec i s = .next t ∧ t.rx = s.rx ∧ t.wire = s.wire ∧ t.evt = s.evt ∧ t.lst = s.lst ∧ t.rt = s.rt ∧
      t.textLen = s.textLen ∧ t.textBuf = s.textBuf ∧ t.pageCache = s.pageCache ∧ t.staging = s.staging ∧ t.cfg = s.cfg ∧
      t.txVerdict = s.txVerdict ∧ t.draws = s.draws ∧ t.hostData = s.hostData ∧ t.agenda = s.agenda ∧ t.moment = s.moment ∧
      (s.ctl ≠ .idle → t.op = s.op ∧ t.txFail = s.txFail ∧ t.trunc = s.trunc) ∧
      (s.ctl = .codec → t.ovr = s.ovr)

/-! ### Frames and encodings -/

/-- Every outbound frame, byte for byte, as its transmit phase sends it, and the frame that each operation in the latch
transmits, from the latch's own fields (R62, R69, R106). That a frame is an instruction of the transmit phase, and that the string
frame's step writes `TRUNC` from the latch, is the model's choice (log entry 8). -/
def Obligations.FramesAreSentByteForByte : Prop :=
  (∀ (a : Addr) (f : Word) (s : State), s.ctl = .encTx → exec (.frameWriteFloat a f) s = .next (sent
    [0x5A, 0xA5, 0x07, 0x82, a.extractLsb' 8 8, a.extractLsb' 0 8,
      f.extractLsb' 8 8, f.extractLsb' 0 8, f.extractLsb' 24 8, f.extractLsb' 16 8] .encSyncDrain s)) ∧
  (∀ (a : Addr) (v : BitVec 16) (s : State), s.ctl = .encTx → exec (.frameWriteInt16 a v) s = .next (sent
    [0x5A, 0xA5, 0x05, 0x82, a.extractLsb' 8 8, a.extractLsb' 0 8, v.extractLsb' 8 8, v.extractLsb' 0 8]
    .encSyncDrain s)) ∧
  (∀ (a : Addr) (data : List Byte) (s : State), s.ctl = .encTx → exec (.frameWriteString a data) s = .next { sent
    ([0x5A, 0xA5, BitVec.ofNat 8 (3 + data.length), 0x82, a.extractLsb' 8 8, a.extractLsb' 0 8] ++ data)
    .encSyncDrain s with trunc := decide (s.op.len8.toNat < s.op.tlen.toNat) }) ∧
  (∀ (on : Bool) (s : State), s.ctl = .encTx → exec (.frameSetBuzzer on) s = .next (sent
    [0x5A, 0xA5, 0x05, 0x82, s.cfg.buzzerAddr.extractLsb' 8 8, s.cfg.buzzerAddr.extractLsb' 0 8, 0x00,
      if on = true then 0x01 else 0x00] .encSyncDrain s)) ∧
  (∀ (page : Byte) (s : State), s.ctl = .encTx → exec (.frameSwitchPage page) s = .next (sent
    ([0x5A, 0xA5, 0x07] ++ s.cfg.pagePrefix.toList ++ [page]) .encAllDrain s)) ∧
  (∀ (ch : Byte) (s : State), s.ctl = .encTx → exec (.frameAppendCurvePoint ch) s = .next (sent
    ([0x5A, 0xA5, 0x0B] ++ (s.cfg.curveAppendBody[ch.toNat]'(ch.isLt)).toList) .encSyncDrain s)) ∧
  (∀ s : State, s.ctl = .encTx → exec .frameClearCurve s = .next (sent
    ([0x5A, 0xA5, 0x05] ++ s.cfg.curveClearBody.toList) .encSyncDrain s)) ∧
  (∀ (a : Addr) (m : Byte) (s : State), s.ctl = .rtTx → exec (.frameReadTextRequest a m) s = .next { sent
    [0x5A, 0xA5, 0x04, 0x83, a.extractLsb' 8 8, a.extractLsb' 0 8, m]
    (if s.cfg.hardened = true ∧ s.txVerdict.ok = false then .rtFinal else .rtWait) s with
    rt := { s.rt with elapsed := 0 } }) ∧
  (∀ l : Latch,
    (l.op = 0x1 → latchFrame l = some (.frameWriteFloat l.addr l.arg)) ∧
    (l.op = 0x2 → latchFrame l = some (.frameWriteInt16 l.addr (l.arg.extractLsb' 0 16))) ∧
    (l.op = 0x3 → l.len8.toNat ≤ 252 → l.len8.toNat ≠ 87 → l.len8.toNat ≠ 162 →
      latchFrame l = some (.frameWriteString l.addr (l.text.toList.take (min l.tlen.toNat l.len8.toNat) ++
        List.replicate (l.len8.toNat - min l.tlen.toNat l.len8.toNat) 0xFF))) ∧
    (l.op = 0x4 → latchFrame l = some (.frameSetBuzzer (l.arg.getLsbD 0))) ∧
    (l.op = 0x5 → latchFrame l = some (.frameSwitchPage (l.arg.extractLsb' 0 8))) ∧
    (l.op = 0x6 → latchFrame l = some (.frameAppendCurvePoint (l.arg.extractLsb' 0 8))) ∧
    (l.op = 0x7 → latchFrame l = some .frameClearCurve) ∧
    (l.op = 0x9 → latchFrame l = some (.frameReadTextRequest l.addr l.len8)))

/-- In a transmit phase the frame that the Controller runs is the operation's own step of that phase: running the frame and
running the operation give the same state. That the Controller runs a frame instruction in a transmit phase is the model's choice
(log entry 8); the rules of the phases, R69 and R106, speak of the operation alone. -/
def Obligations.TransmitPhaseRunsTheOperation : Prop :=
  ∀ s : State, (s.ctl = .encTx ∨ s.ctl = .rtTx) → phaseFits s.ctl s.op.op = true →
    exec (currentInstr s) s = exec (latchInstr s.op) s

/-- R61: every frame that an operation transmits is the sync pair, the count of the body's bytes and the body; the count is 1
to 255 and no sync value. -/
def Obligations.EveryFrameIsWellFramed : Prop :=
  ∀ (p : Params) (l : Latch) (i : Instr) (op : BitVec 4) (bytes : List Byte), latchFrame l = some i →
    encode p i = .frame op bytes →
    i.wellFormed = true ∧ op = l.op ∧
    ∃ len body, bytes = 0x5A :: 0xA5 :: len :: body ∧ len.toNat = body.length ∧ 1 ≤ body.length ∧ body.length ≤ 255 ∧
      len ≠ 0x5A ∧ len ≠ 0xA5

/-- Decoding the encoding of a well-formed instruction gives it back, for every instruction of the table and every operand. A
curve-append frame names its channel only if no two channels share a body, which the spec does not promise (R6, R82), so that
is a premise for that one instruction. -/
def Obligations.DecodeOfEncode : Prop :=
  ∀ (p : Params) (i : Instr), i.wellFormed = true →
    (∀ ch, i = .frameAppendCurvePoint ch → ∀ ch', bodyAppendCurvePoint p ch' = bodyAppendCurvePoint p ch → ch' = ch) →
    decode p (encode p i) = .ok i

/-- The frame that a code decodes to encodes to that very code, so no byte of a frame is ignored (R61, R62). -/
def Obligations.EncodeOfDecodedFrame : Prop :=
  ∀ (p : Params) (op : BitVec 4) (bytes : List Byte) (i : Instr),
    decode p (.frame op bytes) = .ok i → encode p i = .frame op bytes ∧ i.wellFormed = true

/-- R55: reserved descriptor bits, fields and bits that the opcode does not use, and text bytes at positions from `tlen` on
never change the command or the bytes it sends. -/
def Obligations.UnusedBitsAreIgnored : Prop :=
  (∀ d e : BitVec 96, (∀ k, k < 96 → ¬ (4 ≤ k ∧ k < 8) → ¬ (88 ≤ k) → d.getLsbD k = e.getLsbD k) →
    decodeDescriptor d = decodeDescriptor e) ∧
  (∀ d e : BitVec 96, d.extractLsb' 0 4 = e.extractLsb' 0 4 →
    (d.extractLsb' 0 4 = 1 → d.extractLsb' 16 16 = e.extractLsb' 16 16 → d.extractLsb' 32 32 = e.extractLsb' 32 32 →
      decodeDescriptor d = decodeDescriptor e) ∧
    (d.extractLsb' 0 4 = 2 → d.extractLsb' 16 16 = e.extractLsb' 16 16 → d.extractLsb' 32 16 = e.extractLsb' 32 16 →
      decodeDescriptor d = decodeDescriptor e) ∧
    (d.extractLsb' 0 4 = 3 → d.extractLsb' 8 8 = e.extractLsb' 8 8 → d.extractLsb' 16 16 = e.extractLsb' 16 16 →
      d.extractLsb' 80 8 = e.extractLsb' 80 8 → decodeDescriptor d = decodeDescriptor e) ∧
    (d.extractLsb' 0 4 = 4 → d.getLsbD 32 = e.getLsbD 32 → decodeDescriptor d = decodeDescriptor e) ∧
    (d.extractLsb' 0 4 = 5 ∨ d.extractLsb' 0 4 = 6 → d.extractLsb' 32 8 = e.extractLsb' 32 8 →
      decodeDescriptor d = decodeDescriptor e) ∧
    (d.extractLsb' 0 4 = 9 → d.extractLsb' 8 8 = e.extractLsb' 8 8 → d.extractLsb' 16 16 = e.extractLsb' 16 16 →
      d.extractLsb' 32 32 = e.extractLsb' 32 32 → decodeDescriptor d = decodeDescriptor e) ∧
    (d.extractLsb' 0 4 = 10 → d.extractLsb' 64 8 = e.extractLsb' 64 8 → d.extractLsb' 72 8 = e.extractLsb' 72 8 →
      decodeDescriptor d = decodeDescriptor e) ∧
    (d.extractLsb' 0 4 = 11 → d.extractLsb' 16 16 = e.extractLsb' 16 16 → decodeDescriptor d = decodeDescriptor e) ∧
    (d.extractLsb' 0 4 = 7 ∨ d.extractLsb' 0 4 = 8 ∨ d.extractLsb' 0 4 = 0 ∨ 12 ≤ (d.extractLsb' 0 4).toNat →
      decodeDescriptor d = decodeDescriptor e)) ∧
  (∀ (x y : List Byte) (tlen m : Byte), x.take tlen.toNat = y.take tlen.toNat →
    stringData x tlen m = stringData y tlen m)

/-- A few words written out from the spec's encodings decode to their instructions: descriptors of spec/95_test_vectors.md
(programs 1, 2 and 3, K-2, K-3) and the frames E-3, E-6 and L1-10, first byte least significant. Bytes alone do not name a frame's
operation: the frames of E-3 and E-6 are also frames of a `WRITE_STRING`, and that they are read as a float's and an integer's is
the model's choice of an order of trial (log entry 9). -/
def Obligations.WordsDecodeAsTheSpecSays : Prop :=
  decodeTableWord 96 0x000000000000FFFE50000002 = some (.writeInt16 0x5000 0xFFFE) ∧
  decodeTableWord 96 0x0000000000000001500000F2 = some (.writeInt16 0x5000 0x0001) ∧
  decodeTableWord 96 0x000000003F80000012340001 = some (.writeFloat 0x1234 0x3F800000) ∧
  decodeTableWord 96 0x000000000000003210000409 = some (.readText 4 0x1000 50) ∧
  decodeTableWord 96 0x00000010000000000000000A = some (.mergeAddress 0x10 0x00) ∧
  decodeTableWord 96 0x00000000000000001234000B = some (.splitAddress 0x1234) ∧
  decodeTableWord 96 0x00000000000000001234000F = some .reservedF ∧
  decodeTableWord 80 0x4940DB0F10008207A55A = some (.frameWriteFloat 0x0010 0x40490FDB) ∧
  decodeTableWord 64 0xFEFF00508205A55A = some (.frameWriteInt16 0x5000 0xFFFE) ∧
  decodeTableWord 56 0x0A00108304A55A = some (.frameReadTextRequest 0x1000 0x0A)

/-! ### Status, register map, time, streams -/

/-- R20: the bits of the status register, with the numbers of the codes (R123) and of the listener states (R22); the Host reads it
at its offset and cannot write it; when `OVR` is set and when it is cleared; and its reset value. -/
def Obligations.StatusWordLayout : Prop :=
  ∀ (v : Word) (s : State), (statusWord s).getLsbD 0 = decide (s.ctl ≠ .idle) ∧ (statusWord s).getLsbD 1 = s.ovr ∧
    (statusWord s).extractLsb' 2 2 = 0 ∧
    (s.code = .ok → (statusWord s).extractLsb' 4 4 = 0x0) ∧
    (s.code = .noEvent → (statusWord s).extractLsb' 4 4 = 0x1) ∧
    (s.code = .frameTimeout → (statusWord s).extractLsb' 4 4 = 0x2) ∧
    (s.code = .readTimeout → (statusWord s).extractLsb' 4 4 = 0x3) ∧
    (s.code = .transportError → (statusWord s).extractLsb' 4 4 = 0x4) ∧
    (s.code = .truncated → (statusWord s).extractLsb' 4 4 = 0x5) ∧
    (s.code = .invalidArg → (statusWord s).extractLsb' 4 4 = 0x6) ∧
    (s.code = .invalidOp → (statusWord s).extractLsb' 4 4 = 0x7) ∧
    (s.lst.state = .idle → (statusWord s).extractLsb' 8 2 = 0) ∧
    (s.lst.state = .awaitingLength → (statusWord s).extractLsb' 8 2 = 1) ∧
    (s.lst.state = .collectingPayload → (statusWord s).extractLsb' 8 2 = 2) ∧
    (statusWord s).extractLsb' 10 22 = 0 ∧
    hostRead 0x000 s = statusWord s ∧ act (.host (.write 0x000 v)) s = .next s ∧
    (s.ctl ≠ .idle → ∃ t, act (.host (.write 0x02C v)) s = .next t ∧ t.ovr = true) ∧
    (s.ctl = .idle → ∃ t, act (.host (.write 0x02C v)) s = .next t ∧ t.ovr = false) ∧
    ∃ t, act (.host .reset) s = .next t ∧ statusWord t = 0

/-- R30: what each offset of the register map reads as, and which writes have an effect; a text array's element is a byte.
The write to `GO` is the offer of R58 and has its own statement. -/
def Obligations.RegisterMapReadsAndWrites : Prop :=
  ∀ s : State,
    hostRead 0x000 s = statusWord s ∧
    ((hostRead 0x004 s).getLsbD 0 = s.evt.valid ∧ (hostRead 0x004 s).extractLsb' 1 7 = 0 ∧
      (hostRead 0x004 s).extractLsb' 8 8 = s.evt.cmd ∧ (hostRead 0x004 s).extractLsb' 16 8 = s.evt.len ∧
      (hostRead 0x004 s).extractLsb' 24 8 = 0) ∧
    ((hostRead 0x008 s).extractLsb' 0 8 = s.evt.start ∧ (hostRead 0x008 s).extractLsb' 8 8 = s.evt.stop ∧
      (hostRead 0x008 s).extractLsb' 16 8 = s.evt.data ∧ (hostRead 0x008 s).extractLsb' 24 8 = 0) ∧
    ((hostRead 0x00C s).extractLsb' 0 16 = s.mergeOut ∧ (hostRead 0x00C s).extractLsb' 16 8 = s.splitHi ∧
      (hostRead 0x00C s).extractLsb' 24 8 = s.splitLo) ∧
    ((hostRead 0x010 s).extractLsb' 0 8 = s.pageCache ∧ (hostRead 0x010 s).extractLsb' 8 8 = s.textLen ∧
      (hostRead 0x010 s).extractLsb' 16 16 = 0) ∧
    hostRead 0x020 s = s.staging.desc0 ∧ hostRead 0x024 s = s.staging.desc1 ∧ hostRead 0x028 s = s.staging.desc2 ∧
    hostRead 0x02C s = 0 ∧
    (∀ (k : Nat) (h : k < 255), (hostRead (0x100 + k) s).extractLsb' 0 8 = s.textBuf[k]'h ∧
      (hostRead (0x200 + k) s).extractLsb' 0 8 = s.staging.textIn[k]'h) ∧
    (∀ offset : Nat, offset ∉ [0x000, 0x004, 0x008, 0x00C, 0x010, 0x020, 0x024, 0x028] →
      ¬ (0x100 ≤ offset ∧ offset < 0x1FF) → ¬ (0x200 ≤ offset ∧ offset < 0x2FF) → hostRead offset s = 0) ∧
    (∀ v : Word,
      act (.host (.write 0x020 v)) s = .next { s with staging := { s.staging with desc0 := v } } ∧
      act (.host (.write 0x024 v)) s = .next { s with staging := { s.staging with desc1 := v } } ∧
      act (.host (.write 0x028 v)) s = .next { s with staging := { s.staging with desc2 := v } } ∧
      (∀ (b : Byte) (k : Nat) (h : k < 255), act (.host (.write (0x200 + k) (b.setWidth 32))) s = .next { s with
        staging := { s.staging with textIn := s.staging.textIn.set k b h } }) ∧
      (∀ offset : Nat, offset ∉ [0x020, 0x024, 0x028, 0x02C] → ¬ (0x200 ≤ offset ∧ offset < 0x2FF) →
        act (.host (.write offset v)) s = .next s))

/-- A Host read changes no register, no byte of `RX` and none of `WIRE`, and returns the current contents, also while `BUSY`; a
Host write other than to `GO` changes nothing but the staging registers (R31). That the value read stands in the field `hostData`
is the model's choice (log entry 10). -/
def Obligations.HostReadHasNoSideEffect : Prop :=
  ∀ (offset : Nat) (v : Word) (s : State),
    act (.host (.read offset)) s = .next { s with hostData := hostRead offset s } ∧
    (offset ≠ 0x02C → ∃ g, act (.host (.write offset v)) s = .next { s with staging := g })

/-- R139, R140: what a tick changes: `RT_ELAPSED` in `RT_WAIT` and `RT_COPY`, `LST_ELAPSED` while the hardened listener
collects, each by a saturating increment. -/
def Obligations.TickCountsElapsedTime : Prop :=
  ∀ s : State, ∃ t, act .clock s = .next t ∧
    t = { s with rt := t.rt, lst := t.lst } ∧
    t.rt = { s.rt with elapsed := t.rt.elapsed } ∧ t.lst = { s.lst with elapsed := t.lst.elapsed } ∧
    (s.ctl = .rtWait ∨ s.ctl = .rtCopy → t.rt.elapsed.toNat = min (s.rt.elapsed.toNat + 1) 0xFFFFFFFF) ∧
    (s.ctl ≠ .rtWait → s.ctl ≠ .rtCopy → t.rt.elapsed = s.rt.elapsed) ∧
    (s.cfg.hardened = true → s.lst.state = .collectingPayload →
      t.lst.elapsed.toNat = min (s.lst.elapsed.toNat + 1) 0xFFFFFFFF) ∧
    (s.cfg.hardened = false ∨ s.lst.state ≠ .collectingPayload → t.lst.elapsed = s.lst.elapsed)

/-- R140: any number of ticks never wraps a counter: it stays at its greatest value. -/
def Obligations.TicksSaturate : Prop :=
  ∀ (n : Nat) (s : State), ∃ t, runEvents (List.replicate n .clock) s = .next t ∧
      (s.ctl = .rtWait ∨ s.ctl = .rtCopy → t.rt.elapsed.toNat = min (s.rt.elapsed.toNat + n) 0xFFFFFFFF) ∧
      (s.cfg.hardened = true → s.lst.state = .collectingPayload →
        t.lst.elapsed.toNat = min (s.lst.elapsed.toNat + n) 0xFFFFFFFF)

/-- A byte the Link delivers is appended at the tail of `RX` when there is room and changes nothing else (R37); that it is lost at
a full buffer is the model's choice (log entry 6). -/
def Obligations.ReceivedByteIsAppended : Prop :=
  ∀ (b : Byte) (s : State),
    ((s.cfg.rxCapacity = none ∨ ∃ c, s.cfg.rxCapacity = some c ∧ s.rx.length < c) →
      act (.link (.receive b)) s = .next { s with rx := s.rx ++ [b] }) ∧
    ((∃ c, s.cfg.rxCapacity = some c ∧ c ≤ s.rx.length) → act (.link (.receive b)) s = .next s)

/-! ### The whole machine -/

/-- The invariant: every step of every agent keeps the state consistent. From R17, R21 to R23, R86 to R96, R104 to R113 and
the mode column of R123. The model's choices in it: which move a step makes (log entry 2), that a held or idle Controller's move
changes nothing (log entry 7), and the bound on `RX` (log entry 6). -/
def Obligations.StepKeepsConsistent : Prop :=
  ∀ s t : State, s.Consistent → step s = .next t → t.Consistent

/-- The start state is consistent. That `RX` is within its capacity there rests on the model's choice of an empty `RX` in the start
state (log entry 5), which the spec does not give; the rest follows from the reset values of R32. -/
def Obligations.ResetIsConsistent : Prop := State.reset.Consistent

/-- After any step from a consistent state with `HARDENED` false, `LST_STATE` is `Idle` whenever `CTL` is `IDLE` (R22), and no code
is seen that only the hardened mode produces (R123). Which move a step makes is the model's choice (log entry 2). -/
def Obligations.LegacyListenerIsIdleBetweenPolls : Prop :=
  ∀ s t : State, s.Consistent → step s = .next t → t.cfg.hardened = false →
    (t.ctl = .idle → t.lst.state = .idle) ∧
    t.code ≠ .frameTimeout ∧ t.code ≠ .readTimeout ∧ t.code ≠ .transportError ∧ t.code ≠ .truncated

/-- `WIRE` only ever grows at its end, and grows only by a Controller step in a transmit phase: by the frame of the operation in
the latch, whole when the Link's verdict is `ok` and otherwise the prefix that the Link decides (R42, R49). The form of the
verdict is the model's (log entry 4), and so is a frame as an instruction of its own (log entry 8). -/
def Obligations.WireOnlyGrows : Prop :=
  ∀ (e : Event) (s t : State), act e s = .next t →
    t.wire = s.wire ∨
    (e = .controller ∧ (s.ctl = .encTx ∨ s.ctl = .rtTx) ∧
      ∃ (i : Instr) (op : BitVec 4) (bytes : List Byte), latchFrame s.op = some i ∧ encode s.cfg i = .frame op bytes ∧
        t.wire = s.wire ++ (if s.txVerdict.ok = true then bytes else bytes.take s.txVerdict.sent))

/-- The configuration never changes (R6, R14). Which move a step makes is the model's choice (log entry 2). -/
def Obligations.ConfigurationNeverChanges : Prop :=
  ∀ s t : State, step s = .next t → t.cfg = s.cfg

/-- R21 and R29: the event registers change only in a Controller step of a `POLL_EVENT` or by reset, the page cache only in the
drain of a `SWITCH_PAGE` or by reset. -/
def Obligations.ResultsChangeOnlyByTheirOperation : Prop :=
  ∀ (e : Event) (s t : State), phaseFits s.ctl s.op.op = true → act e s = .next t → e ≠ .host .reset →
    (t.evt ≠ s.evt → e = .controller ∧ (s.ctl = .peStart ∨ s.ctl = .peCollect) ∧ s.op.op = 0x8 ∧ t.ctl = .idle) ∧
    (t.pageCache ≠ s.pageCache → e = .controller ∧ s.ctl = .encAllDrain ∧ s.op.op = 0x5 ∧ t.ctl = .idle)

/-- The block never stops with a fault or a refusal (R122, R134): every step of every state has a next state. Which move a step
makes, and that a held or idle Controller's move is one that changes nothing, is the model's choice (log entries 2 and 7). -/
def Obligations.EveryStepHasANextState : Prop :=
  ∀ s : State, ∃ t, step s = .next t

/-- A step runs the instruction it fetches. The step is the next move of the agenda, or the free schedule's with none left, on
the state with that move taken off; the agenda, the schedule and the counter `moment` are the model's choice (log entry 2) for the
order of moves that R5 and R11 leave open. The Host's write to `GO` with the block idle is `exec` of the staged command (R58); a
Controller step with an operation running is `exec` of the instruction of the phase (R16), which in a transmit phase is a frame by
the model's choice (log entry 8). -/
def Obligations.StepRunsTheFetchedInstruction : Prop :=
  ∀ (i : Instr) (v : Word) (e : Event) (rest : List Event) (s : State),
    (s.agenda = e :: rest → step s = act e { s with agenda := rest }) ∧
    (s.agenda = [] → step s = act (Config.schedule s.moment) { s with moment := s.moment + 1 }) ∧
    (s.ctl = .idle → stagedInstr s.staging = i → act (.host (.write 0x02C v)) s = exec i s) ∧
    (s.ctl ≠ .idle → currentInstr s = i → act .controller s = exec i s) ∧
    (s.agenda = .host (.write 0x02C v) :: rest → s.ctl = .idle → stagedInstr s.staging = i →
      step s = exec i { s with agenda := rest }) ∧
    (s.agenda = .controller :: rest → s.ctl ≠ .idle → currentInstr s = i →
      step s = exec i { s with agenda := rest })
end

