-- ==== Sys2Proof/Laws/Decode.lean ====
section
/-! SUPPORT. Lemmas of the encodings' helpers. -/

namespace Sys2Proof

@[simp] theorem length_bodyWriteFloat (a : Addr) (f : Word) : (bodyWriteFloat a f).length = 7 := rfl
@[simp] theorem length_bodyWriteInt16 (a : Addr) (v : BitVec 16) : (bodyWriteInt16 a v).length = 5 := rfl
@[simp] theorem length_bodyWriteString (a : Addr) (d : List Byte) : (bodyWriteString a d).length = d.length + 3 := by
  simp [bodyWriteString]
@[simp] theorem length_bodySetBuzzer (p : Params) (on : Bool) : (bodySetBuzzer p on).length = 5 := rfl
@[simp] theorem length_bodySwitchPage (p : Params) (g : Byte) : (bodySwitchPage p g).length = 7 := by
  simp [bodySwitchPage]
@[simp] theorem length_bodyAppendCurvePoint (p : Params) (ch : Byte) : (bodyAppendCurvePoint p ch).length = 11 := by
  simp [bodyAppendCurvePoint]
@[simp] theorem length_bodyClearCurve (p : Params) : (bodyClearCurve p).length = 5 := by
  simp [bodyClearCurve]
@[simp] theorem length_bodyReadTextRequest (a : Addr) (m : Byte) : (bodyReadTextRequest a m).length = 4 := rfl

@[simp] theorem length_frameOf (b : List Byte) : (frameOf b).length = b.length + 3 := by
  simp [frameOf]

/-- A string's value bytes are as many as `maxLen`, if the text holds as many bytes as its length says. -/
theorem length_stringData (text : List Byte) (tlen m : Byte) (h : tlen.toNat ≤ text.length) :
    (stringData text tlen m).length = m.toNat := by
  simp [stringData]; omega

/-- A latched text always holds as many bytes as `tlen` can say. -/
theorem length_stringData_latched (text : Vector Byte 255) (tlen m : Byte) :
    (stringData text.toList tlen m).length = m.toNat :=
  length_stringData _ _ _ (by have := tlen.isLt; simp; omega)

@[simp] theorem decodeFields_opcode (op : BitVec 4) (len8 : Byte) (addr : Addr) (arg : Word) (hi lo tlen : Byte) :
    (decodeFields op len8 addr arg hi lo tlen).opcode = op := by
  obtain ⟨⟨n, hn⟩⟩ := op
  have : n < 16 := hn
  interval_cases n <;> rfl

/-! ### The descriptor's fields (R54) -/

theorem extract_append_high {n m : Nat} (x : BitVec n) (y : BitVec m) (k w : Nat) :
    (x ++ y).extractLsb' (m + k) w = x.extractLsb' k w := by
  apply BitVec.eq_of_getLsbD_eq
  intro i hi
  have h : ¬ m + k + i < m := by omega
  have h2 : m + k + i - m = k + i := by omega
  simp [BitVec.getLsbD_append, h, h2]

theorem extract_append_within {n m : Nat} (x : BitVec n) (y : BitVec m) (k w : Nat) (h : k + w ≤ m) :
    (x ++ y).extractLsb' k w = y.extractLsb' k w := by
  apply BitVec.eq_of_getLsbD_eq
  intro i hi
  have hk : k + i < m := by omega
  simp [BitVec.getLsbD_append, hk]

theorem extract_append_low {n m : Nat} (x : BitVec n) (y : BitVec m) : (x ++ y).extractLsb' 0 m = y := by
  apply BitVec.eq_of_getLsbD_eq
  intro i hi
  simp [BitVec.getLsbD_append, hi]

section
variable (op : BitVec 4) (len8 : Byte) (addr : Addr) (arg : Word) (hi lo tlen : Byte)

@[simp] theorem packDescriptor_op : (packDescriptor op len8 addr arg hi lo tlen).extractLsb' 0 4 = op :=
  extract_append_low _ op

@[simp] theorem packDescriptor_len8 : (packDescriptor op len8 addr arg hi lo tlen).extractLsb' 8 8 = len8 :=
  (extract_append_high _ op 4 8).trans <| (extract_append_high _ (0 : BitVec 4) 0 8).trans <|
    extract_append_low _ len8

@[simp] theorem packDescriptor_addr : (packDescriptor op len8 addr arg hi lo tlen).extractLsb' 16 16 = addr :=
  (extract_append_high _ op 12 16).trans <| (extract_append_high _ (0 : BitVec 4) 8 16).trans <|
    (extract_append_high _ len8 0 16).trans <| extract_append_low _ addr

@[simp] theorem packDescriptor_arg : (packDescriptor op len8 addr arg hi lo tlen).extractLsb' 32 32 = arg :=
  (extract_append_high _ op 28 32).trans <| (extract_append_high _ (0 : BitVec 4) 24 32).trans <|
    (extract_append_high _ len8 16 32).trans <| (extract_append_high _ addr 0 32).trans <| extract_append_low _ arg

@[simp] theorem packDescriptor_hi : (packDescriptor op len8 addr arg hi lo tlen).extractLsb' 64 8 = hi :=
  (extract_append_high _ op 60 8).trans <| (extract_append_high _ (0 : BitVec 4) 56 8).trans <|
    (extract_append_high _ len8 48 8).trans <| (extract_append_high _ addr 32 8).trans <|
    (extract_append_high _ arg 0 8).trans <| extract_append_low _ hi

@[simp] theorem packDescriptor_lo : (packDescriptor op len8 addr arg hi lo tlen).extractLsb' 72 8 = lo :=
  (extract_append_high _ op 68 8).trans <| (extract_append_high _ (0 : BitVec 4) 64 8).trans <|
    (extract_append_high _ len8 56 8).trans <| (extract_append_high _ addr 40 8).trans <|
    (extract_append_high _ arg 8 8).trans <| (extract_append_high _ hi 0 8).trans <| extract_append_low _ lo

@[simp] theorem packDescriptor_tlen : (packDescriptor op len8 addr arg hi lo tlen).extractLsb' 80 8 = tlen :=
  (extract_append_high _ op 76 8).trans <| (extract_append_high _ (0 : BitVec 4) 72 8).trans <|
    (extract_append_high _ len8 64 8).trans <| (extract_append_high _ addr 48 8).trans <|
    (extract_append_high _ arg 16 8).trans <| (extract_append_high _ hi 8 8).trans <|
    (extract_append_high _ lo 0 8).trans <| extract_append_low _ tlen

theorem decodeDescriptor_pack :
    decodeDescriptor (packDescriptor op len8 addr arg hi lo tlen) = decodeFields op len8 addr arg hi lo tlen := by
  simp [decodeDescriptor]
end

/-- The latch takes from the staging registers the fields that the decoder reads from the staged descriptor. -/
theorem latchInstr_latchOf (g : Machine.Staging) :
    Machine.latchInstr (Machine.latchOf g) = Machine.stagedInstr g := by
  have h0 (k w : Nat) (h : k + w ≤ 32) :
      (Machine.stagedDescriptor g).extractLsb' k w = g.desc0.extractLsb' k w :=
    extract_append_within (g.desc2 ++ g.desc1) g.desc0 k w h
  have h1 : (Machine.stagedDescriptor g).extractLsb' 32 32 = g.desc1 :=
    (extract_append_high (g.desc2 ++ g.desc1) g.desc0 0 32).trans (extract_append_low _ _)
  have h2 (k w : Nat) : (Machine.stagedDescriptor g).extractLsb' (64 + k) w = g.desc2.extractLsb' k w := by
    have := (extract_append_high (g.desc2 ++ g.desc1) g.desc0 (32 + k) w).trans
      (extract_append_high g.desc2 g.desc1 k w)
    rwa [← Nat.add_assoc] at this
  simp only [Machine.latchInstr, Machine.latchOf, Machine.stagedInstr, decodeDescriptor]
  rw [h0 0 4 (by omega), h0 8 8 (by omega), h0 16 16 (by omega), h1, h2 0 8, h2 8 8, h2 16 8]

/-! The command in a latch, by its opcode. -/

section
variable {l : Machine.Latch}

theorem latchInstr_writeFloat (h : l.op.toNat = 1) : Machine.latchInstr l = .writeFloat l.addr l.arg := by
  simp only [Machine.latchInstr, decodeFields, h]

theorem latchInstr_writeInt16 (h : l.op.toNat = 2) : Machine.latchInstr l = .writeInt16 l.addr (l.arg.extractLsb' 0 16) := by
  simp only [Machine.latchInstr, decodeFields, h]

theorem latchInstr_writeString (h : l.op.toNat = 3) : Machine.latchInstr l = .writeString l.len8 l.addr l.tlen := by
  simp only [Machine.latchInstr, decodeFields, h]

theorem latchInstr_setBuzzer (h : l.op.toNat = 4) : Machine.latchInstr l = .setBuzzer (l.arg.getLsbD 0) := by
  simp only [Machine.latchInstr, decodeFields, h]

theorem latchInstr_switchPage (h : l.op.toNat = 5) : Machine.latchInstr l = .switchPage (l.arg.extractLsb' 0 8) := by
  simp only [Machine.latchInstr, decodeFields, h]

theorem latchInstr_appendCurvePoint (h : l.op.toNat = 6) : Machine.latchInstr l = .appendCurvePoint (l.arg.extractLsb' 0 8) := by
  simp only [Machine.latchInstr, decodeFields, h]

theorem latchInstr_clearCurve (h : l.op.toNat = 7) : Machine.latchInstr l = .clearCurve := by
  simp only [Machine.latchInstr, decodeFields, h]

theorem latchInstr_pollEvent (h : l.op.toNat = 8) : Machine.latchInstr l = .pollEvent := by
  simp only [Machine.latchInstr, decodeFields, h]

theorem latchInstr_readText (h : l.op.toNat = 9) : Machine.latchInstr l = .readText l.len8 l.addr l.arg := by
  simp only [Machine.latchInstr, decodeFields, h]

theorem latchInstr_mergeAddress (h : l.op.toNat = 10) : Machine.latchInstr l = .mergeAddress l.hi l.lo := by
  simp only [Machine.latchInstr, decodeFields, h]

theorem latchInstr_splitAddress (h : l.op.toNat = 11) : Machine.latchInstr l = .splitAddress l.addr := by
  simp only [Machine.latchInstr, decodeFields, h]

end

end Sys2Proof
end

