-- ==== Sys2Proof/Laws/State.lean ====
section
/-! SUPPORT. What each update of the state leaves in each field: one lemma for each field and update. -/

namespace Sys2Proof.Machine

variable (s : State)

/-! ### `goto` -/

@[simp] theorem goto_cfg (c : Phase) : (goto c s).cfg = s.cfg := rfl
@[simp] theorem goto_ctl (c : Phase) : (goto c s).ctl = c := rfl
@[simp] theorem goto_op (c : Phase) : (goto c s).op = s.op := rfl
@[simp] theorem goto_staging (c : Phase) : (goto c s).staging = s.staging := rfl
@[simp] theorem goto_ovr (c : Phase) : (goto c s).ovr = s.ovr := rfl
@[simp] theorem goto_code (c : Phase) : (goto c s).code = s.code := rfl
@[simp] theorem goto_evt (c : Phase) : (goto c s).evt = s.evt := rfl
@[simp] theorem goto_lst (c : Phase) : (goto c s).lst = s.lst := rfl
@[simp] theorem goto_textLen (c : Phase) : (goto c s).textLen = s.textLen := rfl
@[simp] theorem goto_textBuf (c : Phase) : (goto c s).textBuf = s.textBuf := rfl
@[simp] theorem goto_rt (c : Phase) : (goto c s).rt = s.rt := rfl
@[simp] theorem goto_txFail (c : Phase) : (goto c s).txFail = s.txFail := rfl
@[simp] theorem goto_trunc (c : Phase) : (goto c s).trunc = s.trunc := rfl
@[simp] theorem goto_mergeOut (c : Phase) : (goto c s).mergeOut = s.mergeOut := rfl
@[simp] theorem goto_splitHi (c : Phase) : (goto c s).splitHi = s.splitHi := rfl
@[simp] theorem goto_splitLo (c : Phase) : (goto c s).splitLo = s.splitLo := rfl
@[simp] theorem goto_pageCache (c : Phase) : (goto c s).pageCache = s.pageCache := rfl
@[simp] theorem goto_rx (c : Phase) : (goto c s).rx = s.rx := rfl
@[simp] theorem goto_wire (c : Phase) : (goto c s).wire = s.wire := rfl
@[simp] theorem goto_txVerdict (c : Phase) : (goto c s).txVerdict = s.txVerdict := rfl
@[simp] theorem goto_draws (c : Phase) : (goto c s).draws = s.draws := rfl
@[simp] theorem goto_hostData (c : Phase) : (goto c s).hostData = s.hostData := rfl
@[simp] theorem goto_agenda (c : Phase) : (goto c s).agenda = s.agenda := rfl
@[simp] theorem goto_moment (c : Phase) : (goto c s).moment = s.moment := rfl

/-! ### `complete` -/

@[simp] theorem complete_cfg (c : StatusCode) : (complete c s).cfg = s.cfg := rfl
@[simp] theorem complete_ctl (c : StatusCode) : (complete c s).ctl = .idle := rfl
@[simp] theorem complete_op (c : StatusCode) : (complete c s).op = s.op := rfl
@[simp] theorem complete_staging (c : StatusCode) : (complete c s).staging = s.staging := rfl
@[simp] theorem complete_ovr (c : StatusCode) : (complete c s).ovr = s.ovr := rfl
@[simp] theorem complete_code (c : StatusCode) : (complete c s).code = c := rfl
@[simp] theorem complete_evt (c : StatusCode) : (complete c s).evt = s.evt := rfl
@[simp] theorem complete_lst (c : StatusCode) : (complete c s).lst = s.lst := rfl
@[simp] theorem complete_textLen (c : StatusCode) : (complete c s).textLen = s.textLen := rfl
@[simp] theorem complete_textBuf (c : StatusCode) : (complete c s).textBuf = s.textBuf := rfl
@[simp] theorem complete_rt (c : StatusCode) : (complete c s).rt = s.rt := rfl
@[simp] theorem complete_txFail (c : StatusCode) : (complete c s).txFail = s.txFail := rfl
@[simp] theorem complete_trunc (c : StatusCode) : (complete c s).trunc = s.trunc := rfl
@[simp] theorem complete_mergeOut (c : StatusCode) : (complete c s).mergeOut = s.mergeOut := rfl
@[simp] theorem complete_splitHi (c : StatusCode) : (complete c s).splitHi = s.splitHi := rfl
@[simp] theorem complete_splitLo (c : StatusCode) : (complete c s).splitLo = s.splitLo := rfl
@[simp] theorem complete_pageCache (c : StatusCode) : (complete c s).pageCache = s.pageCache := rfl
@[simp] theorem complete_rx (c : StatusCode) : (complete c s).rx = s.rx := rfl
@[simp] theorem complete_wire (c : StatusCode) : (complete c s).wire = s.wire := rfl
@[simp] theorem complete_txVerdict (c : StatusCode) : (complete c s).txVerdict = s.txVerdict := rfl
@[simp] theorem complete_draws (c : StatusCode) : (complete c s).draws = s.draws := rfl
@[simp] theorem complete_hostData (c : StatusCode) : (complete c s).hostData = s.hostData := rfl
@[simp] theorem complete_agenda (c : StatusCode) : (complete c s).agenda = s.agenda := rfl
@[simp] theorem complete_moment (c : StatusCode) : (complete c s).moment = s.moment := rfl

/-! ### `latch` -/

@[simp] theorem latch_cfg : (latch s).cfg = s.cfg := rfl
@[simp] theorem latch_ctl : (latch s).ctl = s.ctl := rfl
@[simp] theorem latch_op : (latch s).op = latchOf s.staging := rfl
@[simp] theorem latch_staging : (latch s).staging = s.staging := rfl
@[simp] theorem latch_ovr : (latch s).ovr = false := rfl
@[simp] theorem latch_code : (latch s).code = s.code := rfl
@[simp] theorem latch_evt : (latch s).evt = s.evt := rfl
@[simp] theorem latch_lst : (latch s).lst = s.lst := rfl
@[simp] theorem latch_textLen : (latch s).textLen = s.textLen := rfl
@[simp] theorem latch_textBuf : (latch s).textBuf = s.textBuf := rfl
@[simp] theorem latch_rt : (latch s).rt = s.rt := rfl
@[simp] theorem latch_txFail : (latch s).txFail = false := rfl
@[simp] theorem latch_trunc : (latch s).trunc = false := rfl
@[simp] theorem latch_mergeOut : (latch s).mergeOut = s.mergeOut := rfl
@[simp] theorem latch_splitHi : (latch s).splitHi = s.splitHi := rfl
@[simp] theorem latch_splitLo : (latch s).splitLo = s.splitLo := rfl
@[simp] theorem latch_pageCache : (latch s).pageCache = s.pageCache := rfl
@[simp] theorem latch_rx : (latch s).rx = s.rx := rfl
@[simp] theorem latch_wire : (latch s).wire = s.wire := rfl
@[simp] theorem latch_txVerdict : (latch s).txVerdict = s.txVerdict := rfl
@[simp] theorem latch_draws : (latch s).draws = s.draws := rfl
@[simp] theorem latch_hostData : (latch s).hostData = s.hostData := rfl
@[simp] theorem latch_agenda : (latch s).agenda = s.agenda := rfl
@[simp] theorem latch_moment : (latch s).moment = s.moment := rfl

/-! ### `refuseOffer` -/

@[simp] theorem refuseOffer_cfg : (refuseOffer s).cfg = s.cfg := rfl
@[simp] theorem refuseOffer_ctl : (refuseOffer s).ctl = s.ctl := rfl
@[simp] theorem refuseOffer_op : (refuseOffer s).op = s.op := rfl
@[simp] theorem refuseOffer_staging : (refuseOffer s).staging = s.staging := rfl
@[simp] theorem refuseOffer_ovr : (refuseOffer s).ovr = true := rfl
@[simp] theorem refuseOffer_code : (refuseOffer s).code = s.code := rfl
@[simp] theorem refuseOffer_evt : (refuseOffer s).evt = s.evt := rfl
@[simp] theorem refuseOffer_lst : (refuseOffer s).lst = s.lst := rfl
@[simp] theorem refuseOffer_textLen : (refuseOffer s).textLen = s.textLen := rfl
@[simp] theorem refuseOffer_textBuf : (refuseOffer s).textBuf = s.textBuf := rfl
@[simp] theorem refuseOffer_rt : (refuseOffer s).rt = s.rt := rfl
@[simp] theorem refuseOffer_txFail : (refuseOffer s).txFail = s.txFail := rfl
@[simp] theorem refuseOffer_trunc : (refuseOffer s).trunc = s.trunc := rfl
@[simp] theorem refuseOffer_mergeOut : (refuseOffer s).mergeOut = s.mergeOut := rfl
@[simp] theorem refuseOffer_splitHi : (refuseOffer s).splitHi = s.splitHi := rfl
@[simp] theorem refuseOffer_splitLo : (refuseOffer s).splitLo = s.splitLo := rfl
@[simp] theorem refuseOffer_pageCache : (refuseOffer s).pageCache = s.pageCache := rfl
@[simp] theorem refuseOffer_rx : (refuseOffer s).rx = s.rx := rfl
@[simp] theorem refuseOffer_wire : (refuseOffer s).wire = s.wire := rfl
@[simp] theorem refuseOffer_txVerdict : (refuseOffer s).txVerdict = s.txVerdict := rfl
@[simp] theorem refuseOffer_draws : (refuseOffer s).draws = s.draws := rfl
@[simp] theorem refuseOffer_hostData : (refuseOffer s).hostData = s.hostData := rfl
@[simp] theorem refuseOffer_agenda : (refuseOffer s).agenda = s.agenda := rfl
@[simp] theorem refuseOffer_moment : (refuseOffer s).moment = s.moment := rfl

/-! ### `acceptInto` -/

@[simp] theorem acceptInto_cfg (c : Phase) : (acceptInto c s).cfg = s.cfg := rfl
@[simp] theorem acceptInto_ctl (c : Phase) : (acceptInto c s).ctl = c := rfl
@[simp] theorem acceptInto_op (c : Phase) : (acceptInto c s).op = latchOf s.staging := rfl
@[simp] theorem acceptInto_staging (c : Phase) : (acceptInto c s).staging = s.staging := rfl
@[simp] theorem acceptInto_ovr (c : Phase) : (acceptInto c s).ovr = false := rfl
@[simp] theorem acceptInto_code (c : Phase) : (acceptInto c s).code = s.code := rfl
@[simp] theorem acceptInto_evt (c : Phase) : (acceptInto c s).evt = s.evt := rfl
@[simp] theorem acceptInto_lst (c : Phase) : (acceptInto c s).lst = s.lst := rfl
@[simp] theorem acceptInto_textLen (c : Phase) : (acceptInto c s).textLen = s.textLen := rfl
@[simp] theorem acceptInto_textBuf (c : Phase) : (acceptInto c s).textBuf = s.textBuf := rfl
@[simp] theorem acceptInto_rt (c : Phase) : (acceptInto c s).rt = s.rt := rfl
@[simp] theorem acceptInto_txFail (c : Phase) : (acceptInto c s).txFail = false := rfl
@[simp] theorem acceptInto_trunc (c : Phase) : (acceptInto c s).trunc = false := rfl
@[simp] theorem acceptInto_mergeOut (c : Phase) : (acceptInto c s).mergeOut = s.mergeOut := rfl
@[simp] theorem acceptInto_splitHi (c : Phase) : (acceptInto c s).splitHi = s.splitHi := rfl
@[simp] theorem acceptInto_splitLo (c : Phase) : (acceptInto c s).splitLo = s.splitLo := rfl
@[simp] theorem acceptInto_pageCache (c : Phase) : (acceptInto c s).pageCache = s.pageCache := rfl
@[simp] theorem acceptInto_rx (c : Phase) : (acceptInto c s).rx = s.rx := rfl
@[simp] theorem acceptInto_wire (c : Phase) : (acceptInto c s).wire = s.wire := rfl
@[simp] theorem acceptInto_txVerdict (c : Phase) : (acceptInto c s).txVerdict = s.txVerdict := rfl
@[simp] theorem acceptInto_draws (c : Phase) : (acceptInto c s).draws = s.draws := rfl
@[simp] theorem acceptInto_hostData (c : Phase) : (acceptInto c s).hostData = s.hostData := rfl
@[simp] theorem acceptInto_agenda (c : Phase) : (acceptInto c s).agenda = s.agenda := rfl
@[simp] theorem acceptInto_moment (c : Phase) : (acceptInto c s).moment = s.moment := rfl

/-! ### `setRx` -/

@[simp] theorem setRx_cfg (bs : List Byte) : (setRx bs s).cfg = s.cfg := rfl
@[simp] theorem setRx_ctl (bs : List Byte) : (setRx bs s).ctl = s.ctl := rfl
@[simp] theorem setRx_op (bs : List Byte) : (setRx bs s).op = s.op := rfl
@[simp] theorem setRx_staging (bs : List Byte) : (setRx bs s).staging = s.staging := rfl
@[simp] theorem setRx_ovr (bs : List Byte) : (setRx bs s).ovr = s.ovr := rfl
@[simp] theorem setRx_code (bs : List Byte) : (setRx bs s).code = s.code := rfl
@[simp] theorem setRx_evt (bs : List Byte) : (setRx bs s).evt = s.evt := rfl
@[simp] theorem setRx_lst (bs : List Byte) : (setRx bs s).lst = s.lst := rfl
@[simp] theorem setRx_textLen (bs : List Byte) : (setRx bs s).textLen = s.textLen := rfl
@[simp] theorem setRx_textBuf (bs : List Byte) : (setRx bs s).textBuf = s.textBuf := rfl
@[simp] theorem setRx_rt (bs : List Byte) : (setRx bs s).rt = s.rt := rfl
@[simp] theorem setRx_txFail (bs : List Byte) : (setRx bs s).txFail = s.txFail := rfl
@[simp] theorem setRx_trunc (bs : List Byte) : (setRx bs s).trunc = s.trunc := rfl
@[simp] theorem setRx_mergeOut (bs : List Byte) : (setRx bs s).mergeOut = s.mergeOut := rfl
@[simp] theorem setRx_splitHi (bs : List Byte) : (setRx bs s).splitHi = s.splitHi := rfl
@[simp] theorem setRx_splitLo (bs : List Byte) : (setRx bs s).splitLo = s.splitLo := rfl
@[simp] theorem setRx_pageCache (bs : List Byte) : (setRx bs s).pageCache = s.pageCache := rfl
@[simp] theorem setRx_rx (bs : List Byte) : (setRx bs s).rx = bs := rfl
@[simp] theorem setRx_wire (bs : List Byte) : (setRx bs s).wire = s.wire := rfl
@[simp] theorem setRx_txVerdict (bs : List Byte) : (setRx bs s).txVerdict = s.txVerdict := rfl
@[simp] theorem setRx_draws (bs : List Byte) : (setRx bs s).draws = s.draws := rfl
@[simp] theorem setRx_hostData (bs : List Byte) : (setRx bs s).hostData = s.hostData := rfl
@[simp] theorem setRx_agenda (bs : List Byte) : (setRx bs s).agenda = s.agenda := rfl
@[simp] theorem setRx_moment (bs : List Byte) : (setRx bs s).moment = s.moment := rfl

/-! ### `rxClear` -/

@[simp] theorem rxClear_cfg : (rxClear s).cfg = s.cfg := rfl
@[simp] theorem rxClear_ctl : (rxClear s).ctl = s.ctl := rfl
@[simp] theorem rxClear_op : (rxClear s).op = s.op := rfl
@[simp] theorem rxClear_staging : (rxClear s).staging = s.staging := rfl
@[simp] theorem rxClear_ovr : (rxClear s).ovr = s.ovr := rfl
@[simp] theorem rxClear_code : (rxClear s).code = s.code := rfl
@[simp] theorem rxClear_evt : (rxClear s).evt = s.evt := rfl
@[simp] theorem rxClear_lst : (rxClear s).lst = s.lst := rfl
@[simp] theorem rxClear_textLen : (rxClear s).textLen = s.textLen := rfl
@[simp] theorem rxClear_textBuf : (rxClear s).textBuf = s.textBuf := rfl
@[simp] theorem rxClear_rt : (rxClear s).rt = s.rt := rfl
@[simp] theorem rxClear_txFail : (rxClear s).txFail = s.txFail := rfl
@[simp] theorem rxClear_trunc : (rxClear s).trunc = s.trunc := rfl
@[simp] theorem rxClear_mergeOut : (rxClear s).mergeOut = s.mergeOut := rfl
@[simp] theorem rxClear_splitHi : (rxClear s).splitHi = s.splitHi := rfl
@[simp] theorem rxClear_splitLo : (rxClear s).splitLo = s.splitLo := rfl
@[simp] theorem rxClear_pageCache : (rxClear s).pageCache = s.pageCache := rfl
@[simp] theorem rxClear_rx : (rxClear s).rx = [] := rfl
@[simp] theorem rxClear_wire : (rxClear s).wire = s.wire := rfl
@[simp] theorem rxClear_txVerdict : (rxClear s).txVerdict = s.txVerdict := rfl
@[simp] theorem rxClear_draws : (rxClear s).draws = s.draws := rfl
@[simp] theorem rxClear_hostData : (rxClear s).hostData = s.hostData := rfl
@[simp] theorem rxClear_agenda : (rxClear s).agenda = s.agenda := rfl
@[simp] theorem rxClear_moment : (rxClear s).moment = s.moment := rfl

/-! ### `transmit` -/

@[simp] theorem transmit_cfg (fr : List Byte) : (transmit fr s).cfg = s.cfg := rfl
@[simp] theorem transmit_ctl (fr : List Byte) : (transmit fr s).ctl = s.ctl := rfl
@[simp] theorem transmit_op (fr : List Byte) : (transmit fr s).op = s.op := rfl
@[simp] theorem transmit_staging (fr : List Byte) : (transmit fr s).staging = s.staging := rfl
@[simp] theorem transmit_ovr (fr : List Byte) : (transmit fr s).ovr = s.ovr := rfl
@[simp] theorem transmit_code (fr : List Byte) : (transmit fr s).code = s.code := rfl
@[simp] theorem transmit_evt (fr : List Byte) : (transmit fr s).evt = s.evt := rfl
@[simp] theorem transmit_lst (fr : List Byte) : (transmit fr s).lst = s.lst := rfl
@[simp] theorem transmit_textLen (fr : List Byte) : (transmit fr s).textLen = s.textLen := rfl
@[simp] theorem transmit_textBuf (fr : List Byte) : (transmit fr s).textBuf = s.textBuf := rfl
@[simp] theorem transmit_rt (fr : List Byte) : (transmit fr s).rt = s.rt := rfl
@[simp] theorem transmit_txFail (fr : List Byte) : (transmit fr s).txFail = !s.txVerdict.ok := rfl
@[simp] theorem transmit_trunc (fr : List Byte) : (transmit fr s).trunc = s.trunc := rfl
@[simp] theorem transmit_mergeOut (fr : List Byte) : (transmit fr s).mergeOut = s.mergeOut := rfl
@[simp] theorem transmit_splitHi (fr : List Byte) : (transmit fr s).splitHi = s.splitHi := rfl
@[simp] theorem transmit_splitLo (fr : List Byte) : (transmit fr s).splitLo = s.splitLo := rfl
@[simp] theorem transmit_pageCache (fr : List Byte) : (transmit fr s).pageCache = s.pageCache := rfl
@[simp] theorem transmit_rx (fr : List Byte) : (transmit fr s).rx = s.rx := rfl
@[simp] theorem transmit_wire (fr : List Byte) : (transmit fr s).wire = s.wire ++ sentPart s.txVerdict fr := rfl
@[simp] theorem transmit_txVerdict (fr : List Byte) : (transmit fr s).txVerdict = Config.txVerdict s.draws := rfl
@[simp] theorem transmit_draws (fr : List Byte) : (transmit fr s).draws = s.draws + 1 := rfl
@[simp] theorem transmit_hostData (fr : List Byte) : (transmit fr s).hostData = s.hostData := rfl
@[simp] theorem transmit_agenda (fr : List Byte) : (transmit fr s).agenda = s.agenda := rfl
@[simp] theorem transmit_moment (fr : List Byte) : (transmit fr s).moment = s.moment := rfl

/-! ### `setVerdict` -/

@[simp] theorem setVerdict_cfg (v : TxVerdict) : (setVerdict v s).cfg = s.cfg := rfl
@[simp] theorem setVerdict_ctl (v : TxVerdict) : (setVerdict v s).ctl = s.ctl := rfl
@[simp] theorem setVerdict_op (v : TxVerdict) : (setVerdict v s).op = s.op := rfl
@[simp] theorem setVerdict_staging (v : TxVerdict) : (setVerdict v s).staging = s.staging := rfl
@[simp] theorem setVerdict_ovr (v : TxVerdict) : (setVerdict v s).ovr = s.ovr := rfl
@[simp] theorem setVerdict_code (v : TxVerdict) : (setVerdict v s).code = s.code := rfl
@[simp] theorem setVerdict_evt (v : TxVerdict) : (setVerdict v s).evt = s.evt := rfl
@[simp] theorem setVerdict_lst (v : TxVerdict) : (setVerdict v s).lst = s.lst := rfl
@[simp] theorem setVerdict_textLen (v : TxVerdict) : (setVerdict v s).textLen = s.textLen := rfl
@[simp] theorem setVerdict_textBuf (v : TxVerdict) : (setVerdict v s).textBuf = s.textBuf := rfl
@[simp] theorem setVerdict_rt (v : TxVerdict) : (setVerdict v s).rt = s.rt := rfl
@[simp] theorem setVerdict_txFail (v : TxVerdict) : (setVerdict v s).txFail = s.txFail := rfl
@[simp] theorem setVerdict_trunc (v : TxVerdict) : (setVerdict v s).trunc = s.trunc := rfl
@[simp] theorem setVerdict_mergeOut (v : TxVerdict) : (setVerdict v s).mergeOut = s.mergeOut := rfl
@[simp] theorem setVerdict_splitHi (v : TxVerdict) : (setVerdict v s).splitHi = s.splitHi := rfl
@[simp] theorem setVerdict_splitLo (v : TxVerdict) : (setVerdict v s).splitLo = s.splitLo := rfl
@[simp] theorem setVerdict_pageCache (v : TxVerdict) : (setVerdict v s).pageCache = s.pageCache := rfl
@[simp] theorem setVerdict_rx (v : TxVerdict) : (setVerdict v s).rx = s.rx := rfl
@[simp] theorem setVerdict_wire (v : TxVerdict) : (setVerdict v s).wire = s.wire := rfl
@[simp] theorem setVerdict_txVerdict (v : TxVerdict) : (setVerdict v s).txVerdict = v := rfl
@[simp] theorem setVerdict_draws (v : TxVerdict) : (setVerdict v s).draws = s.draws := rfl
@[simp] theorem setVerdict_hostData (v : TxVerdict) : (setVerdict v s).hostData = s.hostData := rfl
@[simp] theorem setVerdict_agenda (v : TxVerdict) : (setVerdict v s).agenda = s.agenda := rfl
@[simp] theorem setVerdict_moment (v : TxVerdict) : (setVerdict v s).moment = s.moment := rfl

/-! ### `setTrunc` -/

@[simp] theorem setTrunc_cfg (b : Bool) : (setTrunc b s).cfg = s.cfg := rfl
@[simp] theorem setTrunc_ctl (b : Bool) : (setTrunc b s).ctl = s.ctl := rfl
@[simp] theorem setTrunc_op (b : Bool) : (setTrunc b s).op = s.op := rfl
@[simp] theorem setTrunc_staging (b : Bool) : (setTrunc b s).staging = s.staging := rfl
@[simp] theorem setTrunc_ovr (b : Bool) : (setTrunc b s).ovr = s.ovr := rfl
@[simp] theorem setTrunc_code (b : Bool) : (setTrunc b s).code = s.code := rfl
@[simp] theorem setTrunc_evt (b : Bool) : (setTrunc b s).evt = s.evt := rfl
@[simp] theorem setTrunc_lst (b : Bool) : (setTrunc b s).lst = s.lst := rfl
@[simp] theorem setTrunc_textLen (b : Bool) : (setTrunc b s).textLen = s.textLen := rfl
@[simp] theorem setTrunc_textBuf (b : Bool) : (setTrunc b s).textBuf = s.textBuf := rfl
@[simp] theorem setTrunc_rt (b : Bool) : (setTrunc b s).rt = s.rt := rfl
@[simp] theorem setTrunc_txFail (b : Bool) : (setTrunc b s).txFail = s.txFail := rfl
@[simp] theorem setTrunc_trunc (b : Bool) : (setTrunc b s).trunc = b := rfl
@[simp] theorem setTrunc_mergeOut (b : Bool) : (setTrunc b s).mergeOut = s.mergeOut := rfl
@[simp] theorem setTrunc_splitHi (b : Bool) : (setTrunc b s).splitHi = s.splitHi := rfl
@[simp] theorem setTrunc_splitLo (b : Bool) : (setTrunc b s).splitLo = s.splitLo := rfl
@[simp] theorem setTrunc_pageCache (b : Bool) : (setTrunc b s).pageCache = s.pageCache := rfl
@[simp] theorem setTrunc_rx (b : Bool) : (setTrunc b s).rx = s.rx := rfl
@[simp] theorem setTrunc_wire (b : Bool) : (setTrunc b s).wire = s.wire := rfl
@[simp] theorem setTrunc_txVerdict (b : Bool) : (setTrunc b s).txVerdict = s.txVerdict := rfl
@[simp] theorem setTrunc_draws (b : Bool) : (setTrunc b s).draws = s.draws := rfl
@[simp] theorem setTrunc_hostData (b : Bool) : (setTrunc b s).hostData = s.hostData := rfl
@[simp] theorem setTrunc_agenda (b : Bool) : (setTrunc b s).agenda = s.agenda := rfl
@[simp] theorem setTrunc_moment (b : Bool) : (setTrunc b s).moment = s.moment := rfl

/-! ### `setPageCache` -/

@[simp] theorem setPageCache_cfg (b : Byte) : (setPageCache b s).cfg = s.cfg := rfl
@[simp] theorem setPageCache_ctl (b : Byte) : (setPageCache b s).ctl = s.ctl := rfl
@[simp] theorem setPageCache_op (b : Byte) : (setPageCache b s).op = s.op := rfl
@[simp] theorem setPageCache_staging (b : Byte) : (setPageCache b s).staging = s.staging := rfl
@[simp] theorem setPageCache_ovr (b : Byte) : (setPageCache b s).ovr = s.ovr := rfl
@[simp] theorem setPageCache_code (b : Byte) : (setPageCache b s).code = s.code := rfl
@[simp] theorem setPageCache_evt (b : Byte) : (setPageCache b s).evt = s.evt := rfl
@[simp] theorem setPageCache_lst (b : Byte) : (setPageCache b s).lst = s.lst := rfl
@[simp] theorem setPageCache_textLen (b : Byte) : (setPageCache b s).textLen = s.textLen := rfl
@[simp] theorem setPageCache_textBuf (b : Byte) : (setPageCache b s).textBuf = s.textBuf := rfl
@[simp] theorem setPageCache_rt (b : Byte) : (setPageCache b s).rt = s.rt := rfl
@[simp] theorem setPageCache_txFail (b : Byte) : (setPageCache b s).txFail = s.txFail := rfl
@[simp] theorem setPageCache_trunc (b : Byte) : (setPageCache b s).trunc = s.trunc := rfl
@[simp] theorem setPageCache_mergeOut (b : Byte) : (setPageCache b s).mergeOut = s.mergeOut := rfl
@[simp] theorem setPageCache_splitHi (b : Byte) : (setPageCache b s).splitHi = s.splitHi := rfl
@[simp] theorem setPageCache_splitLo (b : Byte) : (setPageCache b s).splitLo = s.splitLo := rfl
@[simp] theorem setPageCache_pageCache (b : Byte) : (setPageCache b s).pageCache = b := rfl
@[simp] theorem setPageCache_rx (b : Byte) : (setPageCache b s).rx = s.rx := rfl
@[simp] theorem setPageCache_wire (b : Byte) : (setPageCache b s).wire = s.wire := rfl
@[simp] theorem setPageCache_txVerdict (b : Byte) : (setPageCache b s).txVerdict = s.txVerdict := rfl
@[simp] theorem setPageCache_draws (b : Byte) : (setPageCache b s).draws = s.draws := rfl
@[simp] theorem setPageCache_hostData (b : Byte) : (setPageCache b s).hostData = s.hostData := rfl
@[simp] theorem setPageCache_agenda (b : Byte) : (setPageCache b s).agenda = s.agenda := rfl
@[simp] theorem setPageCache_moment (b : Byte) : (setPageCache b s).moment = s.moment := rfl

/-! ### `setLst` -/

@[simp] theorem setLst_cfg (l : ListenerRegs) : (setLst l s).cfg = s.cfg := rfl
@[simp] theorem setLst_ctl (l : ListenerRegs) : (setLst l s).ctl = s.ctl := rfl
@[simp] theorem setLst_op (l : ListenerRegs) : (setLst l s).op = s.op := rfl
@[simp] theorem setLst_staging (l : ListenerRegs) : (setLst l s).staging = s.staging := rfl
@[simp] theorem setLst_ovr (l : ListenerRegs) : (setLst l s).ovr = s.ovr := rfl
@[simp] theorem setLst_code (l : ListenerRegs) : (setLst l s).code = s.code := rfl
@[simp] theorem setLst_evt (l : ListenerRegs) : (setLst l s).evt = s.evt := rfl
@[simp] theorem setLst_lst (l : ListenerRegs) : (setLst l s).lst = l := rfl
@[simp] theorem setLst_textLen (l : ListenerRegs) : (setLst l s).textLen = s.textLen := rfl
@[simp] theorem setLst_textBuf (l : ListenerRegs) : (setLst l s).textBuf = s.textBuf := rfl
@[simp] theorem setLst_rt (l : ListenerRegs) : (setLst l s).rt = s.rt := rfl
@[simp] theorem setLst_txFail (l : ListenerRegs) : (setLst l s).txFail = s.txFail := rfl
@[simp] theorem setLst_trunc (l : ListenerRegs) : (setLst l s).trunc = s.trunc := rfl
@[simp] theorem setLst_mergeOut (l : ListenerRegs) : (setLst l s).mergeOut = s.mergeOut := rfl
@[simp] theorem setLst_splitHi (l : ListenerRegs) : (setLst l s).splitHi = s.splitHi := rfl
@[simp] theorem setLst_splitLo (l : ListenerRegs) : (setLst l s).splitLo = s.splitLo := rfl
@[simp] theorem setLst_pageCache (l : ListenerRegs) : (setLst l s).pageCache = s.pageCache := rfl
@[simp] theorem setLst_rx (l : ListenerRegs) : (setLst l s).rx = s.rx := rfl
@[simp] theorem setLst_wire (l : ListenerRegs) : (setLst l s).wire = s.wire := rfl
@[simp] theorem setLst_txVerdict (l : ListenerRegs) : (setLst l s).txVerdict = s.txVerdict := rfl
@[simp] theorem setLst_draws (l : ListenerRegs) : (setLst l s).draws = s.draws := rfl
@[simp] theorem setLst_hostData (l : ListenerRegs) : (setLst l s).hostData = s.hostData := rfl
@[simp] theorem setLst_agenda (l : ListenerRegs) : (setLst l s).agenda = s.agenda := rfl
@[simp] theorem setLst_moment (l : ListenerRegs) : (setLst l s).moment = s.moment := rfl

/-! ### `setLstState` -/

@[simp] theorem setLstState_cfg (x : LstState) : (setLstState x s).cfg = s.cfg := rfl
@[simp] theorem setLstState_ctl (x : LstState) : (setLstState x s).ctl = s.ctl := rfl
@[simp] theorem setLstState_op (x : LstState) : (setLstState x s).op = s.op := rfl
@[simp] theorem setLstState_staging (x : LstState) : (setLstState x s).staging = s.staging := rfl
@[simp] theorem setLstState_ovr (x : LstState) : (setLstState x s).ovr = s.ovr := rfl
@[simp] theorem setLstState_code (x : LstState) : (setLstState x s).code = s.code := rfl
@[simp] theorem setLstState_evt (x : LstState) : (setLstState x s).evt = s.evt := rfl
@[simp] theorem setLstState_lst (x : LstState) : (setLstState x s).lst = { s.lst with state := x } := rfl
@[simp] theorem setLstState_textLen (x : LstState) : (setLstState x s).textLen = s.textLen := rfl
@[simp] theorem setLstState_textBuf (x : LstState) : (setLstState x s).textBuf = s.textBuf := rfl
@[simp] theorem setLstState_rt (x : LstState) : (setLstState x s).rt = s.rt := rfl
@[simp] theorem setLstState_txFail (x : LstState) : (setLstState x s).txFail = s.txFail := rfl
@[simp] theorem setLstState_trunc (x : LstState) : (setLstState x s).trunc = s.trunc := rfl
@[simp] theorem setLstState_mergeOut (x : LstState) : (setLstState x s).mergeOut = s.mergeOut := rfl
@[simp] theorem setLstState_splitHi (x : LstState) : (setLstState x s).splitHi = s.splitHi := rfl
@[simp] theorem setLstState_splitLo (x : LstState) : (setLstState x s).splitLo = s.splitLo := rfl
@[simp] theorem setLstState_pageCache (x : LstState) : (setLstState x s).pageCache = s.pageCache := rfl
@[simp] theorem setLstState_rx (x : LstState) : (setLstState x s).rx = s.rx := rfl
@[simp] theorem setLstState_wire (x : LstState) : (setLstState x s).wire = s.wire := rfl
@[simp] theorem setLstState_txVerdict (x : LstState) : (setLstState x s).txVerdict = s.txVerdict := rfl
@[simp] theorem setLstState_draws (x : LstState) : (setLstState x s).draws = s.draws := rfl
@[simp] theorem setLstState_hostData (x : LstState) : (setLstState x s).hostData = s.hostData := rfl
@[simp] theorem setLstState_agenda (x : LstState) : (setLstState x s).agenda = s.agenda := rfl
@[simp] theorem setLstState_moment (x : LstState) : (setLstState x s).moment = s.moment := rfl

/-! ### `setEvt` -/

@[simp] theorem setEvt_cfg (e : EventRegs) : (setEvt e s).cfg = s.cfg := rfl
@[simp] theorem setEvt_ctl (e : EventRegs) : (setEvt e s).ctl = s.ctl := rfl
@[simp] theorem setEvt_op (e : EventRegs) : (setEvt e s).op = s.op := rfl
@[simp] theorem setEvt_staging (e : EventRegs) : (setEvt e s).staging = s.staging := rfl
@[simp] theorem setEvt_ovr (e : EventRegs) : (setEvt e s).ovr = s.ovr := rfl
@[simp] theorem setEvt_code (e : EventRegs) : (setEvt e s).code = s.code := rfl
@[simp] theorem setEvt_evt (e : EventRegs) : (setEvt e s).evt = e := rfl
@[simp] theorem setEvt_lst (e : EventRegs) : (setEvt e s).lst = s.lst := rfl
@[simp] theorem setEvt_textLen (e : EventRegs) : (setEvt e s).textLen = s.textLen := rfl
@[simp] theorem setEvt_textBuf (e : EventRegs) : (setEvt e s).textBuf = s.textBuf := rfl
@[simp] theorem setEvt_rt (e : EventRegs) : (setEvt e s).rt = s.rt := rfl
@[simp] theorem setEvt_txFail (e : EventRegs) : (setEvt e s).txFail = s.txFail := rfl
@[simp] theorem setEvt_trunc (e : EventRegs) : (setEvt e s).trunc = s.trunc := rfl
@[simp] theorem setEvt_mergeOut (e : EventRegs) : (setEvt e s).mergeOut = s.mergeOut := rfl
@[simp] theorem setEvt_splitHi (e : EventRegs) : (setEvt e s).splitHi = s.splitHi := rfl
@[simp] theorem setEvt_splitLo (e : EventRegs) : (setEvt e s).splitLo = s.splitLo := rfl
@[simp] theorem setEvt_pageCache (e : EventRegs) : (setEvt e s).pageCache = s.pageCache := rfl
@[simp] theorem setEvt_rx (e : EventRegs) : (setEvt e s).rx = s.rx := rfl
@[simp] theorem setEvt_wire (e : EventRegs) : (setEvt e s).wire = s.wire := rfl
@[simp] theorem setEvt_txVerdict (e : EventRegs) : (setEvt e s).txVerdict = s.txVerdict := rfl
@[simp] theorem setEvt_draws (e : EventRegs) : (setEvt e s).draws = s.draws := rfl
@[simp] theorem setEvt_hostData (e : EventRegs) : (setEvt e s).hostData = s.hostData := rfl
@[simp] theorem setEvt_agenda (e : EventRegs) : (setEvt e s).agenda = s.agenda := rfl
@[simp] theorem setEvt_moment (e : EventRegs) : (setEvt e s).moment = s.moment := rfl

/-! ### `setRt` -/

@[simp] theorem setRt_cfg (r : ReaderRegs) : (setRt r s).cfg = s.cfg := rfl
@[simp] theorem setRt_ctl (r : ReaderRegs) : (setRt r s).ctl = s.ctl := rfl
@[simp] theorem setRt_op (r : ReaderRegs) : (setRt r s).op = s.op := rfl
@[simp] theorem setRt_staging (r : ReaderRegs) : (setRt r s).staging = s.staging := rfl
@[simp] theorem setRt_ovr (r : ReaderRegs) : (setRt r s).ovr = s.ovr := rfl
@[simp] theorem setRt_code (r : ReaderRegs) : (setRt r s).code = s.code := rfl
@[simp] theorem setRt_evt (r : ReaderRegs) : (setRt r s).evt = s.evt := rfl
@[simp] theorem setRt_lst (r : ReaderRegs) : (setRt r s).lst = s.lst := rfl
@[simp] theorem setRt_textLen (r : ReaderRegs) : (setRt r s).textLen = s.textLen := rfl
@[simp] theorem setRt_textBuf (r : ReaderRegs) : (setRt r s).textBuf = s.textBuf := rfl
@[simp] theorem setRt_rt (r : ReaderRegs) : (setRt r s).rt = r := rfl
@[simp] theorem setRt_txFail (r : ReaderRegs) : (setRt r s).txFail = s.txFail := rfl
@[simp] theorem setRt_trunc (r : ReaderRegs) : (setRt r s).trunc = s.trunc := rfl
@[simp] theorem setRt_mergeOut (r : ReaderRegs) : (setRt r s).mergeOut = s.mergeOut := rfl
@[simp] theorem setRt_splitHi (r : ReaderRegs) : (setRt r s).splitHi = s.splitHi := rfl
@[simp] theorem setRt_splitLo (r : ReaderRegs) : (setRt r s).splitLo = s.splitLo := rfl
@[simp] theorem setRt_pageCache (r : ReaderRegs) : (setRt r s).pageCache = s.pageCache := rfl
@[simp] theorem setRt_rx (r : ReaderRegs) : (setRt r s).rx = s.rx := rfl
@[simp] theorem setRt_wire (r : ReaderRegs) : (setRt r s).wire = s.wire := rfl
@[simp] theorem setRt_txVerdict (r : ReaderRegs) : (setRt r s).txVerdict = s.txVerdict := rfl
@[simp] theorem setRt_draws (r : ReaderRegs) : (setRt r s).draws = s.draws := rfl
@[simp] theorem setRt_hostData (r : ReaderRegs) : (setRt r s).hostData = s.hostData := rfl
@[simp] theorem setRt_agenda (r : ReaderRegs) : (setRt r s).agenda = s.agenda := rfl
@[simp] theorem setRt_moment (r : ReaderRegs) : (setRt r s).moment = s.moment := rfl

/-! ### `setTextLen` -/

@[simp] theorem setTextLen_cfg (n : Byte) : (setTextLen n s).cfg = s.cfg := rfl
@[simp] theorem setTextLen_ctl (n : Byte) : (setTextLen n s).ctl = s.ctl := rfl
@[simp] theorem setTextLen_op (n : Byte) : (setTextLen n s).op = s.op := rfl
@[simp] theorem setTextLen_staging (n : Byte) : (setTextLen n s).staging = s.staging := rfl
@[simp] theorem setTextLen_ovr (n : Byte) : (setTextLen n s).ovr = s.ovr := rfl
@[simp] theorem setTextLen_code (n : Byte) : (setTextLen n s).code = s.code := rfl
@[simp] theorem setTextLen_evt (n : Byte) : (setTextLen n s).evt = s.evt := rfl
@[simp] theorem setTextLen_lst (n : Byte) : (setTextLen n s).lst = s.lst := rfl
@[simp] theorem setTextLen_textLen (n : Byte) : (setTextLen n s).textLen = n := rfl
@[simp] theorem setTextLen_textBuf (n : Byte) : (setTextLen n s).textBuf = s.textBuf := rfl
@[simp] theorem setTextLen_rt (n : Byte) : (setTextLen n s).rt = s.rt := rfl
@[simp] theorem setTextLen_txFail (n : Byte) : (setTextLen n s).txFail = s.txFail := rfl
@[simp] theorem setTextLen_trunc (n : Byte) : (setTextLen n s).trunc = s.trunc := rfl
@[simp] theorem setTextLen_mergeOut (n : Byte) : (setTextLen n s).mergeOut = s.mergeOut := rfl
@[simp] theorem setTextLen_splitHi (n : Byte) : (setTextLen n s).splitHi = s.splitHi := rfl
@[simp] theorem setTextLen_splitLo (n : Byte) : (setTextLen n s).splitLo = s.splitLo := rfl
@[simp] theorem setTextLen_pageCache (n : Byte) : (setTextLen n s).pageCache = s.pageCache := rfl
@[simp] theorem setTextLen_rx (n : Byte) : (setTextLen n s).rx = s.rx := rfl
@[simp] theorem setTextLen_wire (n : Byte) : (setTextLen n s).wire = s.wire := rfl
@[simp] theorem setTextLen_txVerdict (n : Byte) : (setTextLen n s).txVerdict = s.txVerdict := rfl
@[simp] theorem setTextLen_draws (n : Byte) : (setTextLen n s).draws = s.draws := rfl
@[simp] theorem setTextLen_hostData (n : Byte) : (setTextLen n s).hostData = s.hostData := rfl
@[simp] theorem setTextLen_agenda (n : Byte) : (setTextLen n s).agenda = s.agenda := rfl
@[simp] theorem setTextLen_moment (n : Byte) : (setTextLen n s).moment = s.moment := rfl

/-! ### `appendText` -/

@[simp] theorem appendText_cfg (c : Byte) : (appendText c s).cfg = s.cfg := rfl
@[simp] theorem appendText_ctl (c : Byte) : (appendText c s).ctl = s.ctl := rfl
@[simp] theorem appendText_op (c : Byte) : (appendText c s).op = s.op := rfl
@[simp] theorem appendText_staging (c : Byte) : (appendText c s).staging = s.staging := rfl
@[simp] theorem appendText_ovr (c : Byte) : (appendText c s).ovr = s.ovr := rfl
@[simp] theorem appendText_code (c : Byte) : (appendText c s).code = s.code := rfl
@[simp] theorem appendText_evt (c : Byte) : (appendText c s).evt = s.evt := rfl
@[simp] theorem appendText_lst (c : Byte) : (appendText c s).lst = s.lst := rfl
@[simp] theorem appendText_textLen (c : Byte) : (appendText c s).textLen = s.textLen + 1 := rfl
@[simp] theorem appendText_textBuf (c : Byte) : (appendText c s).textBuf = s.textBuf.setIfInBounds s.textLen.toNat c := rfl
@[simp] theorem appendText_rt (c : Byte) : (appendText c s).rt = s.rt := rfl
@[simp] theorem appendText_txFail (c : Byte) : (appendText c s).txFail = s.txFail := rfl
@[simp] theorem appendText_trunc (c : Byte) : (appendText c s).trunc = s.trunc := rfl
@[simp] theorem appendText_mergeOut (c : Byte) : (appendText c s).mergeOut = s.mergeOut := rfl
@[simp] theorem appendText_splitHi (c : Byte) : (appendText c s).splitHi = s.splitHi := rfl
@[simp] theorem appendText_splitLo (c : Byte) : (appendText c s).splitLo = s.splitLo := rfl
@[simp] theorem appendText_pageCache (c : Byte) : (appendText c s).pageCache = s.pageCache := rfl
@[simp] theorem appendText_rx (c : Byte) : (appendText c s).rx = s.rx := rfl
@[simp] theorem appendText_wire (c : Byte) : (appendText c s).wire = s.wire := rfl
@[simp] theorem appendText_txVerdict (c : Byte) : (appendText c s).txVerdict = s.txVerdict := rfl
@[simp] theorem appendText_draws (c : Byte) : (appendText c s).draws = s.draws := rfl
@[simp] theorem appendText_hostData (c : Byte) : (appendText c s).hostData = s.hostData := rfl
@[simp] theorem appendText_agenda (c : Byte) : (appendText c s).agenda = s.agenda := rfl
@[simp] theorem appendText_moment (c : Byte) : (appendText c s).moment = s.moment := rfl

/-! ### `setStaging` -/

@[simp] theorem setStaging_cfg (g : Staging) : (setStaging g s).cfg = s.cfg := rfl
@[simp] theorem setStaging_ctl (g : Staging) : (setStaging g s).ctl = s.ctl := rfl
@[simp] theorem setStaging_op (g : Staging) : (setStaging g s).op = s.op := rfl
@[simp] theorem setStaging_staging (g : Staging) : (setStaging g s).staging = g := rfl
@[simp] theorem setStaging_ovr (g : Staging) : (setStaging g s).ovr = s.ovr := rfl
@[simp] theorem setStaging_code (g : Staging) : (setStaging g s).code = s.code := rfl
@[simp] theorem setStaging_evt (g : Staging) : (setStaging g s).evt = s.evt := rfl
@[simp] theorem setStaging_lst (g : Staging) : (setStaging g s).lst = s.lst := rfl
@[simp] theorem setStaging_textLen (g : Staging) : (setStaging g s).textLen = s.textLen := rfl
@[simp] theorem setStaging_textBuf (g : Staging) : (setStaging g s).textBuf = s.textBuf := rfl
@[simp] theorem setStaging_rt (g : Staging) : (setStaging g s).rt = s.rt := rfl
@[simp] theorem setStaging_txFail (g : Staging) : (setStaging g s).txFail = s.txFail := rfl
@[simp] theorem setStaging_trunc (g : Staging) : (setStaging g s).trunc = s.trunc := rfl
@[simp] theorem setStaging_mergeOut (g : Staging) : (setStaging g s).mergeOut = s.mergeOut := rfl
@[simp] theorem setStaging_splitHi (g : Staging) : (setStaging g s).splitHi = s.splitHi := rfl
@[simp] theorem setStaging_splitLo (g : Staging) : (setStaging g s).splitLo = s.splitLo := rfl
@[simp] theorem setStaging_pageCache (g : Staging) : (setStaging g s).pageCache = s.pageCache := rfl
@[simp] theorem setStaging_rx (g : Staging) : (setStaging g s).rx = s.rx := rfl
@[simp] theorem setStaging_wire (g : Staging) : (setStaging g s).wire = s.wire := rfl
@[simp] theorem setStaging_txVerdict (g : Staging) : (setStaging g s).txVerdict = s.txVerdict := rfl
@[simp] theorem setStaging_draws (g : Staging) : (setStaging g s).draws = s.draws := rfl
@[simp] theorem setStaging_hostData (g : Staging) : (setStaging g s).hostData = s.hostData := rfl
@[simp] theorem setStaging_agenda (g : Staging) : (setStaging g s).agenda = s.agenda := rfl
@[simp] theorem setStaging_moment (g : Staging) : (setStaging g s).moment = s.moment := rfl

/-! ### `setHostData` -/

@[simp] theorem setHostData_cfg (w : Word) : (setHostData w s).cfg = s.cfg := rfl
@[simp] theorem setHostData_ctl (w : Word) : (setHostData w s).ctl = s.ctl := rfl
@[simp] theorem setHostData_op (w : Word) : (setHostData w s).op = s.op := rfl
@[simp] theorem setHostData_staging (w : Word) : (setHostData w s).staging = s.staging := rfl
@[simp] theorem setHostData_ovr (w : Word) : (setHostData w s).ovr = s.ovr := rfl
@[simp] theorem setHostData_code (w : Word) : (setHostData w s).code = s.code := rfl
@[simp] theorem setHostData_evt (w : Word) : (setHostData w s).evt = s.evt := rfl
@[simp] theorem setHostData_lst (w : Word) : (setHostData w s).lst = s.lst := rfl
@[simp] theorem setHostData_textLen (w : Word) : (setHostData w s).textLen = s.textLen := rfl
@[simp] theorem setHostData_textBuf (w : Word) : (setHostData w s).textBuf = s.textBuf := rfl
@[simp] theorem setHostData_rt (w : Word) : (setHostData w s).rt = s.rt := rfl
@[simp] theorem setHostData_txFail (w : Word) : (setHostData w s).txFail = s.txFail := rfl
@[simp] theorem setHostData_trunc (w : Word) : (setHostData w s).trunc = s.trunc := rfl
@[simp] theorem setHostData_mergeOut (w : Word) : (setHostData w s).mergeOut = s.mergeOut := rfl
@[simp] theorem setHostData_splitHi (w : Word) : (setHostData w s).splitHi = s.splitHi := rfl
@[simp] theorem setHostData_splitLo (w : Word) : (setHostData w s).splitLo = s.splitLo := rfl
@[simp] theorem setHostData_pageCache (w : Word) : (setHostData w s).pageCache = s.pageCache := rfl
@[simp] theorem setHostData_rx (w : Word) : (setHostData w s).rx = s.rx := rfl
@[simp] theorem setHostData_wire (w : Word) : (setHostData w s).wire = s.wire := rfl
@[simp] theorem setHostData_txVerdict (w : Word) : (setHostData w s).txVerdict = s.txVerdict := rfl
@[simp] theorem setHostData_draws (w : Word) : (setHostData w s).draws = s.draws := rfl
@[simp] theorem setHostData_hostData (w : Word) : (setHostData w s).hostData = w := rfl
@[simp] theorem setHostData_agenda (w : Word) : (setHostData w s).agenda = s.agenda := rfl
@[simp] theorem setHostData_moment (w : Word) : (setHostData w s).moment = s.moment := rfl

/-! ### `setMerge` -/

@[simp] theorem setMerge_cfg (h l : Byte) : (setMerge h l s).cfg = s.cfg := rfl
@[simp] theorem setMerge_ctl (h l : Byte) : (setMerge h l s).ctl = s.ctl := rfl
@[simp] theorem setMerge_op (h l : Byte) : (setMerge h l s).op = s.op := rfl
@[simp] theorem setMerge_staging (h l : Byte) : (setMerge h l s).staging = s.staging := rfl
@[simp] theorem setMerge_ovr (h l : Byte) : (setMerge h l s).ovr = s.ovr := rfl
@[simp] theorem setMerge_code (h l : Byte) : (setMerge h l s).code = s.code := rfl
@[simp] theorem setMerge_evt (h l : Byte) : (setMerge h l s).evt = s.evt := rfl
@[simp] theorem setMerge_lst (h l : Byte) : (setMerge h l s).lst = s.lst := rfl
@[simp] theorem setMerge_textLen (h l : Byte) : (setMerge h l s).textLen = s.textLen := rfl
@[simp] theorem setMerge_textBuf (h l : Byte) : (setMerge h l s).textBuf = s.textBuf := rfl
@[simp] theorem setMerge_rt (h l : Byte) : (setMerge h l s).rt = s.rt := rfl
@[simp] theorem setMerge_txFail (h l : Byte) : (setMerge h l s).txFail = s.txFail := rfl
@[simp] theorem setMerge_trunc (h l : Byte) : (setMerge h l s).trunc = s.trunc := rfl
@[simp] theorem setMerge_mergeOut (h l : Byte) : (setMerge h l s).mergeOut = (h.setWidth 16 <<< 8) ||| l.setWidth 16 := rfl
@[simp] theorem setMerge_splitHi (h l : Byte) : (setMerge h l s).splitHi = s.splitHi := rfl
@[simp] theorem setMerge_splitLo (h l : Byte) : (setMerge h l s).splitLo = s.splitLo := rfl
@[simp] theorem setMerge_pageCache (h l : Byte) : (setMerge h l s).pageCache = s.pageCache := rfl
@[simp] theorem setMerge_rx (h l : Byte) : (setMerge h l s).rx = s.rx := rfl
@[simp] theorem setMerge_wire (h l : Byte) : (setMerge h l s).wire = s.wire := rfl
@[simp] theorem setMerge_txVerdict (h l : Byte) : (setMerge h l s).txVerdict = s.txVerdict := rfl
@[simp] theorem setMerge_draws (h l : Byte) : (setMerge h l s).draws = s.draws := rfl
@[simp] theorem setMerge_hostData (h l : Byte) : (setMerge h l s).hostData = s.hostData := rfl
@[simp] theorem setMerge_agenda (h l : Byte) : (setMerge h l s).agenda = s.agenda := rfl
@[simp] theorem setMerge_moment (h l : Byte) : (setMerge h l s).moment = s.moment := rfl

/-! ### `setSplit` -/

@[simp] theorem setSplit_cfg (a : Addr) : (setSplit a s).cfg = s.cfg := rfl
@[simp] theorem setSplit_ctl (a : Addr) : (setSplit a s).ctl = s.ctl := rfl
@[simp] theorem setSplit_op (a : Addr) : (setSplit a s).op = s.op := rfl
@[simp] theorem setSplit_staging (a : Addr) : (setSplit a s).staging = s.staging := rfl
@[simp] theorem setSplit_ovr (a : Addr) : (setSplit a s).ovr = s.ovr := rfl
@[simp] theorem setSplit_code (a : Addr) : (setSplit a s).code = s.code := rfl
@[simp] theorem setSplit_evt (a : Addr) : (setSplit a s).evt = s.evt := rfl
@[simp] theorem setSplit_lst (a : Addr) : (setSplit a s).lst = s.lst := rfl
@[simp] theorem setSplit_textLen (a : Addr) : (setSplit a s).textLen = s.textLen := rfl
@[simp] theorem setSplit_textBuf (a : Addr) : (setSplit a s).textBuf = s.textBuf := rfl
@[simp] theorem setSplit_rt (a : Addr) : (setSplit a s).rt = s.rt := rfl
@[simp] theorem setSplit_txFail (a : Addr) : (setSplit a s).txFail = s.txFail := rfl
@[simp] theorem setSplit_trunc (a : Addr) : (setSplit a s).trunc = s.trunc := rfl
@[simp] theorem setSplit_mergeOut (a : Addr) : (setSplit a s).mergeOut = s.mergeOut := rfl
@[simp] theorem setSplit_splitHi (a : Addr) : (setSplit a s).splitHi = hi8 a := rfl
@[simp] theorem setSplit_splitLo (a : Addr) : (setSplit a s).splitLo = lo8 a := rfl
@[simp] theorem setSplit_pageCache (a : Addr) : (setSplit a s).pageCache = s.pageCache := rfl
@[simp] theorem setSplit_rx (a : Addr) : (setSplit a s).rx = s.rx := rfl
@[simp] theorem setSplit_wire (a : Addr) : (setSplit a s).wire = s.wire := rfl
@[simp] theorem setSplit_txVerdict (a : Addr) : (setSplit a s).txVerdict = s.txVerdict := rfl
@[simp] theorem setSplit_draws (a : Addr) : (setSplit a s).draws = s.draws := rfl
@[simp] theorem setSplit_hostData (a : Addr) : (setSplit a s).hostData = s.hostData := rfl
@[simp] theorem setSplit_agenda (a : Addr) : (setSplit a s).agenda = s.agenda := rfl
@[simp] theorem setSplit_moment (a : Addr) : (setSplit a s).moment = s.moment := rfl

/-! ### `tick` -/

@[simp] theorem tick_cfg : (tick s).cfg = s.cfg := rfl
@[simp] theorem tick_ctl : (tick s).ctl = s.ctl := rfl
@[simp] theorem tick_op : (tick s).op = s.op := rfl
@[simp] theorem tick_staging : (tick s).staging = s.staging := rfl
@[simp] theorem tick_ovr : (tick s).ovr = s.ovr := rfl
@[simp] theorem tick_code : (tick s).code = s.code := rfl
@[simp] theorem tick_evt : (tick s).evt = s.evt := rfl
@[simp] theorem tick_lst : (tick s).lst = if s.cfg.hardened = true ∧ s.lst.state = .collectingPayload then { s.lst with elapsed := satInc s.lst.elapsed } else s.lst := rfl
@[simp] theorem tick_textLen : (tick s).textLen = s.textLen := rfl
@[simp] theorem tick_textBuf : (tick s).textBuf = s.textBuf := rfl
@[simp] theorem tick_rt : (tick s).rt = if s.ctl = .rtWait ∨ s.ctl = .rtCopy then { s.rt with elapsed := satInc s.rt.elapsed } else s.rt := rfl
@[simp] theorem tick_txFail : (tick s).txFail = s.txFail := rfl
@[simp] theorem tick_trunc : (tick s).trunc = s.trunc := rfl
@[simp] theorem tick_mergeOut : (tick s).mergeOut = s.mergeOut := rfl
@[simp] theorem tick_splitHi : (tick s).splitHi = s.splitHi := rfl
@[simp] theorem tick_splitLo : (tick s).splitLo = s.splitLo := rfl
@[simp] theorem tick_pageCache : (tick s).pageCache = s.pageCache := rfl
@[simp] theorem tick_rx : (tick s).rx = s.rx := rfl
@[simp] theorem tick_wire : (tick s).wire = s.wire := rfl
@[simp] theorem tick_txVerdict : (tick s).txVerdict = s.txVerdict := rfl
@[simp] theorem tick_draws : (tick s).draws = s.draws := rfl
@[simp] theorem tick_hostData : (tick s).hostData = s.hostData := rfl
@[simp] theorem tick_agenda : (tick s).agenda = s.agenda := rfl
@[simp] theorem tick_moment : (tick s).moment = s.moment := rfl

/-! ### `resetInput` -/

@[simp] theorem resetInput_cfg : (resetInput s).cfg = s.cfg := rfl
@[simp] theorem resetInput_ctl : (resetInput s).ctl = .idle := rfl
@[simp] theorem resetInput_op : (resetInput s).op = Latch.zero := rfl
@[simp] theorem resetInput_staging : (resetInput s).staging = Staging.zero := rfl
@[simp] theorem resetInput_ovr : (resetInput s).ovr = false := rfl
@[simp] theorem resetInput_code : (resetInput s).code = .ok := rfl
@[simp] theorem resetInput_evt : (resetInput s).evt = EventRegs.zero := rfl
@[simp] theorem resetInput_lst : (resetInput s).lst = ListenerRegs.zero := rfl
@[simp] theorem resetInput_textLen : (resetInput s).textLen = 0 := rfl
@[simp] theorem resetInput_textBuf : (resetInput s).textBuf = Vector.replicate 255 0 := rfl
@[simp] theorem resetInput_rt : (resetInput s).rt = ReaderRegs.zero := rfl
@[simp] theorem resetInput_txFail : (resetInput s).txFail = false := rfl
@[simp] theorem resetInput_trunc : (resetInput s).trunc = false := rfl
@[simp] theorem resetInput_mergeOut : (resetInput s).mergeOut = 0 := rfl
@[simp] theorem resetInput_splitHi : (resetInput s).splitHi = 0 := rfl
@[simp] theorem resetInput_splitLo : (resetInput s).splitLo = 0 := rfl
@[simp] theorem resetInput_pageCache : (resetInput s).pageCache = 0 := rfl
@[simp] theorem resetInput_rx : (resetInput s).rx = s.rx := rfl
@[simp] theorem resetInput_wire : (resetInput s).wire = s.wire := rfl
@[simp] theorem resetInput_txVerdict : (resetInput s).txVerdict = s.txVerdict := rfl
@[simp] theorem resetInput_draws : (resetInput s).draws = s.draws := rfl
@[simp] theorem resetInput_hostData : (resetInput s).hostData = s.hostData := rfl
@[simp] theorem resetInput_agenda : (resetInput s).agenda = s.agenda := rfl
@[simp] theorem resetInput_moment : (resetInput s).moment = s.moment := rfl

/-! ### `abortPartial` -/

@[simp] theorem abortPartial_cfg : (abortPartial s).cfg = s.cfg := rfl
@[simp] theorem abortPartial_ctl : (abortPartial s).ctl = s.ctl := rfl
@[simp] theorem abortPartial_op : (abortPartial s).op = s.op := rfl
@[simp] theorem abortPartial_staging : (abortPartial s).staging = s.staging := rfl
@[simp] theorem abortPartial_ovr : (abortPartial s).ovr = s.ovr := rfl
@[simp] theorem abortPartial_code : (abortPartial s).code = s.code := rfl
@[simp] theorem abortPartial_evt : (abortPartial s).evt = s.evt := rfl
@[simp] theorem abortPartial_lst : (abortPartial s).lst = ListenerRegs.zero := rfl
@[simp] theorem abortPartial_textLen : (abortPartial s).textLen = s.textLen := rfl
@[simp] theorem abortPartial_textBuf : (abortPartial s).textBuf = s.textBuf := rfl
@[simp] theorem abortPartial_rt : (abortPartial s).rt = s.rt := rfl
@[simp] theorem abortPartial_txFail : (abortPartial s).txFail = s.txFail := rfl
@[simp] theorem abortPartial_trunc : (abortPartial s).trunc = s.trunc := rfl
@[simp] theorem abortPartial_mergeOut : (abortPartial s).mergeOut = s.mergeOut := rfl
@[simp] theorem abortPartial_splitHi : (abortPartial s).splitHi = s.splitHi := rfl
@[simp] theorem abortPartial_splitLo : (abortPartial s).splitLo = s.splitLo := rfl
@[simp] theorem abortPartial_pageCache : (abortPartial s).pageCache = s.pageCache := rfl
@[simp] theorem abortPartial_rx : (abortPartial s).rx = s.rx := rfl
@[simp] theorem abortPartial_wire : (abortPartial s).wire = s.wire := rfl
@[simp] theorem abortPartial_txVerdict : (abortPartial s).txVerdict = s.txVerdict := rfl
@[simp] theorem abortPartial_draws : (abortPartial s).draws = s.draws := rfl
@[simp] theorem abortPartial_hostData : (abortPartial s).hostData = s.hostData := rfl
@[simp] theorem abortPartial_agenda : (abortPartial s).agenda = s.agenda := rfl
@[simp] theorem abortPartial_moment : (abortPartial s).moment = s.moment := rfl

/-! ### `noEvent` -/

@[simp] theorem noEvent_cfg (c : StatusCode) : (noEvent c s).cfg = s.cfg := rfl
@[simp] theorem noEvent_ctl (c : StatusCode) : (noEvent c s).ctl = .idle := rfl
@[simp] theorem noEvent_op (c : StatusCode) : (noEvent c s).op = s.op := rfl
@[simp] theorem noEvent_staging (c : StatusCode) : (noEvent c s).staging = s.staging := rfl
@[simp] theorem noEvent_ovr (c : StatusCode) : (noEvent c s).ovr = s.ovr := rfl
@[simp] theorem noEvent_code (c : StatusCode) : (noEvent c s).code = c := rfl
@[simp] theorem noEvent_evt (c : StatusCode) : (noEvent c s).evt = EventRegs.zero := rfl
@[simp] theorem noEvent_lst (c : StatusCode) : (noEvent c s).lst = s.lst := rfl
@[simp] theorem noEvent_textLen (c : StatusCode) : (noEvent c s).textLen = s.textLen := rfl
@[simp] theorem noEvent_textBuf (c : StatusCode) : (noEvent c s).textBuf = s.textBuf := rfl
@[simp] theorem noEvent_rt (c : StatusCode) : (noEvent c s).rt = s.rt := rfl
@[simp] theorem noEvent_txFail (c : StatusCode) : (noEvent c s).txFail = s.txFail := rfl
@[simp] theorem noEvent_trunc (c : StatusCode) : (noEvent c s).trunc = s.trunc := rfl
@[simp] theorem noEvent_mergeOut (c : StatusCode) : (noEvent c s).mergeOut = s.mergeOut := rfl
@[simp] theorem noEvent_splitHi (c : StatusCode) : (noEvent c s).splitHi = s.splitHi := rfl
@[simp] theorem noEvent_splitLo (c : StatusCode) : (noEvent c s).splitLo = s.splitLo := rfl
@[simp] theorem noEvent_pageCache (c : StatusCode) : (noEvent c s).pageCache = s.pageCache := rfl
@[simp] theorem noEvent_rx (c : StatusCode) : (noEvent c s).rx = s.rx := rfl
@[simp] theorem noEvent_wire (c : StatusCode) : (noEvent c s).wire = s.wire := rfl
@[simp] theorem noEvent_txVerdict (c : StatusCode) : (noEvent c s).txVerdict = s.txVerdict := rfl
@[simp] theorem noEvent_draws (c : StatusCode) : (noEvent c s).draws = s.draws := rfl
@[simp] theorem noEvent_hostData (c : StatusCode) : (noEvent c s).hostData = s.hostData := rfl
@[simp] theorem noEvent_agenda (c : StatusCode) : (noEvent c s).agenda = s.agenda := rfl
@[simp] theorem noEvent_moment (c : StatusCode) : (noEvent c s).moment = s.moment := rfl

/-! ### `publish` -/

@[simp] theorem publish_cfg : (publish s).cfg = s.cfg := rfl
@[simp] theorem publish_ctl : (publish s).ctl = .idle := rfl
@[simp] theorem publish_op : (publish s).op = s.op := rfl
@[simp] theorem publish_staging : (publish s).staging = s.staging := rfl
@[simp] theorem publish_ovr : (publish s).ovr = s.ovr := rfl
@[simp] theorem publish_code : (publish s).code = .ok := rfl
@[simp] theorem publish_evt : (publish s).evt = { valid := true, cmd := s.lst.cmd, start := s.lst.start, stop := s.lst.stop, data := s.lst.data, len := s.lst.n } := rfl
@[simp] theorem publish_lst : (publish s).lst = { s.lst with state := .idle } := rfl
@[simp] theorem publish_textLen : (publish s).textLen = s.textLen := rfl
@[simp] theorem publish_textBuf : (publish s).textBuf = s.textBuf := rfl
@[simp] theorem publish_rt : (publish s).rt = s.rt := rfl
@[simp] theorem publish_txFail : (publish s).txFail = s.txFail := rfl
@[simp] theorem publish_trunc : (publish s).trunc = s.trunc := rfl
@[simp] theorem publish_mergeOut : (publish s).mergeOut = s.mergeOut := rfl
@[simp] theorem publish_splitHi : (publish s).splitHi = s.splitHi := rfl
@[simp] theorem publish_splitLo : (publish s).splitLo = s.splitLo := rfl
@[simp] theorem publish_pageCache : (publish s).pageCache = s.pageCache := rfl
@[simp] theorem publish_rx : (publish s).rx = s.rx := rfl
@[simp] theorem publish_wire : (publish s).wire = s.wire := rfl
@[simp] theorem publish_txVerdict : (publish s).txVerdict = s.txVerdict := rfl
@[simp] theorem publish_draws : (publish s).draws = s.draws := rfl
@[simp] theorem publish_hostData : (publish s).hostData = s.hostData := rfl
@[simp] theorem publish_agenda : (publish s).agenda = s.agenda := rfl
@[simp] theorem publish_moment : (publish s).moment = s.moment := rfl

/-! ### `encTransmit` -/

@[simp] theorem encTransmit_cfg (body : List Byte) (c : Phase) : (encTransmit body c s).cfg = s.cfg := rfl
@[simp] theorem encTransmit_ctl (body : List Byte) (c : Phase) : (encTransmit body c s).ctl = c := rfl
@[simp] theorem encTransmit_op (body : List Byte) (c : Phase) : (encTransmit body c s).op = s.op := rfl
@[simp] theorem encTransmit_staging (body : List Byte) (c : Phase) : (encTransmit body c s).staging = s.staging := rfl
@[simp] theorem encTransmit_ovr (body : List Byte) (c : Phase) : (encTransmit body c s).ovr = s.ovr := rfl
@[simp] theorem encTransmit_code (body : List Byte) (c : Phase) : (encTransmit body c s).code = s.code := rfl
@[simp] theorem encTransmit_evt (body : List Byte) (c : Phase) : (encTransmit body c s).evt = s.evt := rfl
@[simp] theorem encTransmit_lst (body : List Byte) (c : Phase) : (encTransmit body c s).lst = s.lst := rfl
@[simp] theorem encTransmit_textLen (body : List Byte) (c : Phase) : (encTransmit body c s).textLen = s.textLen := rfl
@[simp] theorem encTransmit_textBuf (body : List Byte) (c : Phase) : (encTransmit body c s).textBuf = s.textBuf := rfl
@[simp] theorem encTransmit_rt (body : List Byte) (c : Phase) : (encTransmit body c s).rt = s.rt := rfl
@[simp] theorem encTransmit_txFail (body : List Byte) (c : Phase) : (encTransmit body c s).txFail = !s.txVerdict.ok := rfl
@[simp] theorem encTransmit_trunc (body : List Byte) (c : Phase) : (encTransmit body c s).trunc = s.trunc := rfl
@[simp] theorem encTransmit_mergeOut (body : List Byte) (c : Phase) : (encTransmit body c s).mergeOut = s.mergeOut := rfl
@[simp] theorem encTransmit_splitHi (body : List Byte) (c : Phase) : (encTransmit body c s).splitHi = s.splitHi := rfl
@[simp] theorem encTransmit_splitLo (body : List Byte) (c : Phase) : (encTransmit body c s).splitLo = s.splitLo := rfl
@[simp] theorem encTransmit_pageCache (body : List Byte) (c : Phase) : (encTransmit body c s).pageCache = s.pageCache := rfl
@[simp] theorem encTransmit_rx (body : List Byte) (c : Phase) : (encTransmit body c s).rx = s.rx := rfl
@[simp] theorem encTransmit_wire (body : List Byte) (c : Phase) : (encTransmit body c s).wire = s.wire ++ sentPart s.txVerdict (frameOf body) := rfl
@[simp] theorem encTransmit_txVerdict (body : List Byte) (c : Phase) : (encTransmit body c s).txVerdict = Config.txVerdict s.draws := rfl
@[simp] theorem encTransmit_draws (body : List Byte) (c : Phase) : (encTransmit body c s).draws = s.draws + 1 := rfl
@[simp] theorem encTransmit_hostData (body : List Byte) (c : Phase) : (encTransmit body c s).hostData = s.hostData := rfl
@[simp] theorem encTransmit_agenda (body : List Byte) (c : Phase) : (encTransmit body c s).agenda = s.agenda := rfl
@[simp] theorem encTransmit_moment (body : List Byte) (c : Phase) : (encTransmit body c s).moment = s.moment := rfl

/-! ### `encSyncDrain` -/

@[simp] theorem encSyncDrain_cfg : (encSyncDrain s).cfg = s.cfg := rfl
@[simp] theorem encSyncDrain_ctl : (encSyncDrain s).ctl = .idle := rfl
@[simp] theorem encSyncDrain_op : (encSyncDrain s).op = s.op := rfl
@[simp] theorem encSyncDrain_staging : (encSyncDrain s).staging = s.staging := rfl
@[simp] theorem encSyncDrain_ovr : (encSyncDrain s).ovr = s.ovr := rfl
@[simp] theorem encSyncDrain_code : (encSyncDrain s).code = encStatus s := rfl
@[simp] theorem encSyncDrain_evt : (encSyncDrain s).evt = s.evt := rfl
@[simp] theorem encSyncDrain_lst : (encSyncDrain s).lst = s.lst := rfl
@[simp] theorem encSyncDrain_textLen : (encSyncDrain s).textLen = s.textLen := rfl
@[simp] theorem encSyncDrain_textBuf : (encSyncDrain s).textBuf = s.textBuf := rfl
@[simp] theorem encSyncDrain_rt : (encSyncDrain s).rt = s.rt := rfl
@[simp] theorem encSyncDrain_txFail : (encSyncDrain s).txFail = s.txFail := rfl
@[simp] theorem encSyncDrain_trunc : (encSyncDrain s).trunc = s.trunc := rfl
@[simp] theorem encSyncDrain_mergeOut : (encSyncDrain s).mergeOut = s.mergeOut := rfl
@[simp] theorem encSyncDrain_splitHi : (encSyncDrain s).splitHi = s.splitHi := rfl
@[simp] theorem encSyncDrain_splitLo : (encSyncDrain s).splitLo = s.splitLo := rfl
@[simp] theorem encSyncDrain_pageCache : (encSyncDrain s).pageCache = s.pageCache := rfl
@[simp] theorem encSyncDrain_rx : (encSyncDrain s).rx = s.rx.dropWhile isSync := rfl
@[simp] theorem encSyncDrain_wire : (encSyncDrain s).wire = s.wire := rfl
@[simp] theorem encSyncDrain_txVerdict : (encSyncDrain s).txVerdict = s.txVerdict := rfl
@[simp] theorem encSyncDrain_draws : (encSyncDrain s).draws = s.draws := rfl
@[simp] theorem encSyncDrain_hostData : (encSyncDrain s).hostData = s.hostData := rfl
@[simp] theorem encSyncDrain_agenda : (encSyncDrain s).agenda = s.agenda := rfl
@[simp] theorem encSyncDrain_moment : (encSyncDrain s).moment = s.moment := rfl

/-! ### `encAllDrain` -/

@[simp] theorem encAllDrain_cfg (page : Byte) : (encAllDrain page s).cfg = s.cfg := rfl
@[simp] theorem encAllDrain_ctl (page : Byte) : (encAllDrain page s).ctl = .idle := rfl
@[simp] theorem encAllDrain_op (page : Byte) : (encAllDrain page s).op = s.op := rfl
@[simp] theorem encAllDrain_staging (page : Byte) : (encAllDrain page s).staging = s.staging := rfl
@[simp] theorem encAllDrain_ovr (page : Byte) : (encAllDrain page s).ovr = s.ovr := rfl
@[simp] theorem encAllDrain_code (page : Byte) : (encAllDrain page s).code = encStatus s := rfl
@[simp] theorem encAllDrain_evt (page : Byte) : (encAllDrain page s).evt = s.evt := rfl
@[simp] theorem encAllDrain_lst (page : Byte) : (encAllDrain page s).lst = s.lst := rfl
@[simp] theorem encAllDrain_textLen (page : Byte) : (encAllDrain page s).textLen = s.textLen := rfl
@[simp] theorem encAllDrain_textBuf (page : Byte) : (encAllDrain page s).textBuf = s.textBuf := rfl
@[simp] theorem encAllDrain_rt (page : Byte) : (encAllDrain page s).rt = s.rt := rfl
@[simp] theorem encAllDrain_txFail (page : Byte) : (encAllDrain page s).txFail = s.txFail := rfl
@[simp] theorem encAllDrain_trunc (page : Byte) : (encAllDrain page s).trunc = s.trunc := rfl
@[simp] theorem encAllDrain_mergeOut (page : Byte) : (encAllDrain page s).mergeOut = s.mergeOut := rfl
@[simp] theorem encAllDrain_splitHi (page : Byte) : (encAllDrain page s).splitHi = s.splitHi := rfl
@[simp] theorem encAllDrain_splitLo (page : Byte) : (encAllDrain page s).splitLo = s.splitLo := rfl
@[simp] theorem encAllDrain_pageCache (page : Byte) : (encAllDrain page s).pageCache = page := rfl
@[simp] theorem encAllDrain_rx (page : Byte) : (encAllDrain page s).rx = [] := rfl
@[simp] theorem encAllDrain_wire (page : Byte) : (encAllDrain page s).wire = s.wire := rfl
@[simp] theorem encAllDrain_txVerdict (page : Byte) : (encAllDrain page s).txVerdict = s.txVerdict := rfl
@[simp] theorem encAllDrain_draws (page : Byte) : (encAllDrain page s).draws = s.draws := rfl
@[simp] theorem encAllDrain_hostData (page : Byte) : (encAllDrain page s).hostData = s.hostData := rfl
@[simp] theorem encAllDrain_agenda (page : Byte) : (encAllDrain page s).agenda = s.agenda := rfl
@[simp] theorem encAllDrain_moment (page : Byte) : (encAllDrain page s).moment = s.moment := rfl

end Sys2Proof.Machine
end

