-- ==== Sys2Proof/Laws/Ops.lean ====
section
/-! SUPPORT. For each shared operation, what it can do, said once. -/

namespace Sys2Proof.Machine

/-! ### Streams -/

@[simp] theorem rxCount_eq (s : State) : rxCount s = s.rx.length := rfl

theorem sentPart_ok {v : TxVerdict} (h : v.ok = true) (fr : List Byte) : sentPart v fr = fr := by
  simp [sentPart, h]

theorem sentPart_failed {v : TxVerdict} (h : v.ok = false) (fr : List Byte) : sentPart v fr = fr.take v.sent := by
  simp [sentPart, h]

theorem sentPart_prefix (v : TxVerdict) (fr : List Byte) : sentPart v fr <+: fr := by
  unfold sentPart
  split
  · exact List.prefix_rfl
  · exact List.take_prefix _ _

/-- A received byte is appended, or lost at a full buffer. -/
theorem receive_cases (b : Byte) (s : State) :
    (rxHasRoom s = true ∧ receive b s = setRx (s.rx ++ [b]) s) ∨ (rxHasRoom s = false ∧ receive b s = s) := by
  unfold receive
  cases h : rxHasRoom s <;> simp

theorem rxHasRoom_iff (s : State) :
    rxHasRoom s = true ↔ ∀ c, s.cfg.rxCapacity = some c → s.rx.length < c := by
  unfold rxHasRoom
  cases h : s.cfg.rxCapacity <;> simp

theorem isSync_iff (b : Byte) : isSync b = true ↔ b = sync0 ∨ b = sync1 := by
  simp [isSync]

theorem isStray_iff (b : Byte) : isStray b = true ↔ b = sync0 ∨ b = sync1 ∨ b = 0 := by
  simp [isStray, isSync, or_assoc]

/-! ### The encoder -/

theorem encoderOp_idle {s : State} (tx : State → State) (h : s.ctl = .idle) :
    encoderOp tx s = acceptInto .encTx s := by simp [encoderOp, h]

theorem encoderOp_encTx {s : State} (tx : State → State) (h : s.ctl = .encTx) : encoderOp tx s = tx s := by
  simp [encoderOp, h]

theorem encoderOp_encSyncDrain {s : State} (tx : State → State) (h : s.ctl = .encSyncDrain) :
    encoderOp tx s = encSyncDrain s := by simp [encoderOp, h]

/-- An encoder operation accepts, transmits, drains, or is an offer to a busy block. -/
theorem encoderOp_cases (tx : State → State) (s : State) :
    (s.ctl = .idle ∧ encoderOp tx s = acceptInto .encTx s) ∨
    (s.ctl = .encTx ∧ encoderOp tx s = tx s) ∨
    (s.ctl = .encSyncDrain ∧ encoderOp tx s = encSyncDrain s) ∨
    encoderOp tx s = refuseOffer s := by
  unfold encoderOp
  cases h : s.ctl <;> simp

theorem encoderFrame_cases (tx : State → State) (s : State) :
    (s.ctl = .encTx ∧ encoderFrame tx s = tx s) ∨ (s.ctl ≠ .encTx ∧ encoderFrame tx s = s) := by
  unfold encoderFrame
  cases h : s.ctl <;> simp

/-! ### The codec -/

theorem codecOp_cases (w : State → State) (s : State) :
    (s.ctl = .idle ∧ codecOp w s = acceptInto .codec s) ∨
    (s.ctl = .codec ∧ codecOp w s = complete .ok (w s)) ∨
    codecOp w s = refuseOffer s := by
  unfold codecOp
  cases h : s.ctl <;> simp

/-! ### The listener -/

theorem acceptPoll_cases (s : State) :
    (s.lst.state = .idle ∧ acceptPoll s = setLstState .awaitingLength (acceptInto .peStart s)) ∨
    (s.lst.state ≠ .idle ∧ acceptPoll s = acceptInto .peStart s) := by
  unfold acceptPoll
  cases h : s.lst.state <;> simp [h]

theorem readLength_cases (s : State) :
    (s.rx = [] ∧ readLength s = noEvent .noEvent (setLstState .idle s)) ∨
    (∃ b rest, s.rx = b :: rest ∧ isStray b = true ∧
      readLength s = noEvent .noEvent (setLstState .idle (setRx rest s))) ∨
    (∃ b rest, s.rx = b :: rest ∧ isStray b = false ∧ readLength s = setLst (startFrame b s.lst) (setRx rest s)) := by
  unfold readLength
  cases h : s.rx with
  | nil => simp
  | cons b rest => cases hb : isStray b <;> simp [hb]

section
variable (c : Byte) (l : ListenerRegs)
@[simp] theorem storeBodyByte_state : (storeBodyByte c l).state = l.state := rfl
@[simp] theorem storeBodyByte_n : (storeBodyByte c l).n = l.n := rfl
@[simp] theorem storeBodyByte_idx : (storeBodyByte c l).idx = l.idx + 1 := rfl
@[simp] theorem storeBodyByte_elapsed : (storeBodyByte c l).elapsed = l.elapsed := rfl
@[simp] theorem storeBodyByte_cmd : (storeBodyByte c l).cmd = if l.idx + 1 = 1 then c else l.cmd := rfl
@[simp] theorem storeBodyByte_start : (storeBodyByte c l).start = if l.idx + 1 = 2 then c else l.start := rfl
@[simp] theorem storeBodyByte_stop : (storeBodyByte c l).stop = if l.idx + 1 = 3 then c else l.stop := rfl
@[simp] theorem storeBodyByte_data : (storeBodyByte c l).data = if l.idx + 1 = l.n then c else l.data := rfl
end

/-- Collecting takes bytes from the head until the frame is complete or the stream is empty; the length, the state and
the elapsed time stay. -/
theorem collectBody_spec (bs : List Byte) (l : ListenerRegs) (h : l.idx.toNat ≤ l.n.toNat) :
    ∃ k, k ≤ bs.length ∧ (collectBody bs l).1 = bs.drop k ∧
      (collectBody bs l).2.idx.toNat = l.idx.toNat + k ∧ l.idx.toNat + k ≤ l.n.toNat ∧
      (k = bs.length ∨ l.idx.toNat + k = l.n.toNat) ∧
      (collectBody bs l).2.n = l.n ∧ (collectBody bs l).2.state = l.state ∧
      (collectBody bs l).2.elapsed = l.elapsed := by
  induction bs generalizing l with
  | nil => exact ⟨0, by simp, by simp [collectBody], by simp [collectBody], by omega, by simp, rfl, rfl, rfl⟩
  | cons b rest ih =>
    by_cases hlt : l.idx < l.n
    · have hn : l.idx.toNat < l.n.toNat := hlt
      have h1 : (l.idx + 1).toNat = l.idx.toNat + 1 := by
        have := l.n.isLt
        rw [BitVec.toNat_add]; simp; omega
      have := ih (storeBodyByte b l) (by simp only [storeBodyByte_idx, storeBodyByte_n, h1]; omega)
      simp only [storeBodyByte_idx, storeBodyByte_n, storeBodyByte_state, storeBodyByte_elapsed, h1] at this
      obtain ⟨k, hk, hd, hi, hle, hor, hr⟩ := this
      refine ⟨k + 1, by simp; omega, ?_, ?_, by omega, ?_, ?_⟩
      · simpa [collectBody, hlt] using hd
      · simp only [collectBody, hlt, if_true]; omega
      · simp only [List.length_cons]; omega
      · simpa [collectBody, hlt] using hr
    · have hn : ¬ l.idx.toNat < l.n.toNat := hlt
      exact ⟨0, by simp, by simp [collectBody, hlt], by simp [collectBody, hlt], by omega, by omega,
        by simp [collectBody, hlt], by simp [collectBody, hlt], by simp [collectBody, hlt]⟩

/-- After the body bytes are taken, a hardened poll publishes, times out or leaves the frame collecting. -/
theorem pollCollect_cases (s : State) :
    ∃ t, t = setLst (collectBody s.rx s.lst).2 (setRx (collectBody s.rx s.lst).1 s) ∧
    ((t.lst.idx = t.lst.n ∧ pollCollect s = publish t) ∨
     (t.lst.idx ≠ t.lst.n ∧ t.cfg.frameTimeout.toNat ≤ t.lst.elapsed.toNat ∧
       pollCollect s = noEvent .frameTimeout (abortPartial t)) ∨
     (t.lst.idx ≠ t.lst.n ∧ t.lst.elapsed.toNat < t.cfg.frameTimeout.toNat ∧ pollCollect s = noEvent .noEvent t)) := by
  refine ⟨_, rfl, ?_⟩
  unfold pollCollect
  by_cases h1 : (collectBody s.rx s.lst).2.idx = (collectBody s.rx s.lst).2.n
  · simp [h1]
  · by_cases h2 : s.cfg.frameTimeout.toNat ≤ (collectBody s.rx s.lst).2.elapsed.toNat
    · simp [h1, h2]
    · simp [h1, h2]; omega

theorem pollCollectLegacy_cases (s : State) :
    (s.rx = [] ∧ pollCollectLegacy s = s) ∨
    (∃ c rest, s.rx = c :: rest ∧ s.lst.idx + 1 = s.lst.n ∧
      pollCollectLegacy s = publish (setLst (storeBodyByte c s.lst) (setRx rest s))) ∨
    (∃ c rest, s.rx = c :: rest ∧ s.lst.idx + 1 ≠ s.lst.n ∧
      pollCollectLegacy s = setLst (storeBodyByte c s.lst) (setRx rest s)) := by
  unfold pollCollectLegacy
  cases h : s.rx with
  | nil => simp
  | cons c rest => by_cases he : s.lst.idx + 1#8 = s.lst.n <;> simp [he]

/-! ### The text reader -/

theorem readWait_cases (m : Byte) (t : Word) (s : State) :
    (deadlineElapsed t s = true ∧ readWait m t s = readTimeOut s) ∨
    (deadlineElapsed t s = false ∧ s.rt.hdr = true ∧ m.toNat + 2 ≤ s.rx.length ∧ readWait m t s = goto .rtCopy s) ∨
    (deadlineElapsed t s = false ∧ s.rt.hdr = false ∧ 3 ≤ s.rx.length ∧ readWait m t s = seekHeader s) ∨
    (deadlineElapsed t s = false ∧ readWait m t s = s) := by
  unfold readWait
  cases deadlineElapsed t s <;> cases s.rt.hdr <;> by_cases h3 : 3 ≤ s.rx.length <;>
    by_cases hm : m.toNat + 2 ≤ s.rx.length <;> simp [h3, hm]

/-- A seek step consumes one, two or three bytes; three exactly when it finds the header. -/
theorem seekHeader_cases (s : State) (h : 3 ≤ s.rx.length) :
    ∃ b0 b1 b2 rest, s.rx = b0 :: b1 :: b2 :: rest ∧
      ((b0 ≠ sync0 ∧ seekHeader s = setRx (b1 :: b2 :: rest) s) ∨
       (b0 = sync0 ∧ b1 ≠ sync1 ∧ seekHeader s = setRx (b2 :: rest) s) ∨
       (b0 = sync0 ∧ b1 = sync1 ∧
         seekHeader s = setRt { s.rt with respLen := b2, hdr := true } (setRx rest s))) := by
  match hrx : s.rx, h with
  | b0 :: b1 :: b2 :: rest, _ =>
    refine ⟨b0, b1, b2, rest, rfl, ?_⟩
    unfold seekHeader
    rw [hrx]
    by_cases h0 : b0 = sync0 <;> by_cases h1 : b1 = sync1 <;> simp [h0, h1]

theorem copyByte_echo {m c : Byte} {s : State} (h : s.rt.disc.toNat < 3) :
    copyByte m c s = (let t := setRt { s.rt with disc := s.rt.disc + 1 } s
      if s.rt.disc + 1 = 3 ∧ m = 0 then goto .rtFinal t else t) := by
  unfold copyByte
  rw [if_pos h]
  rfl

theorem copyByte_sentinel {m : Byte} {s : State} (h : ¬ s.rt.disc.toNat < 3) :
    copyByte m fillByte s = goto .rtFinal (setRt { s.rt with reads := s.rt.reads + 1 } s) := by
  simp [copyByte, h]

theorem copyByte_data {m c : Byte} {s : State} (h : ¬ s.rt.disc.toNat < 3) (hc : c ≠ fillByte) :
    copyByte m c s = (let u := appendText c (setRt { s.rt with reads := s.rt.reads + 1 } s)
      if s.rt.reads + 1 = m then goto .rtFinal u else u) := by
  unfold copyByte
  rw [if_neg h, if_neg hc]
  rfl

theorem readCopy_cases (m : Byte) (t : Word) (s : State) :
    (∃ c rest, s.rx = c :: rest ∧ readCopy m t s = copyByte m c (setRx rest s)) ∨
    (s.rx = [] ∧ s.cfg.hardened = true ∧ deadlineElapsed t s = true ∧ readCopy m t s = readTimeOut s) ∨
    (s.rx = [] ∧ readCopy m t s = s) := by
  unfold readCopy
  cases h : s.rx with
  | cons c rest => simp
  | nil => cases s.cfg.hardened <;> cases deadlineElapsed t s <;> simp

theorem readTx_cases (m : Byte) (a : Addr) (s : State) :
    ∃ u, u = setRt { s.rt with elapsed := 0 } (transmit (frameOf (bodyReadTextRequest a m)) s) ∧
      ((s.cfg.hardened = true ∧ s.txVerdict.ok = false ∧ readTx m a s = goto .rtFinal u) ∨
       (¬ (s.cfg.hardened = true ∧ s.txVerdict.ok = false) ∧ readTx m a s = goto .rtWait u)) := by
  refine ⟨_, rfl, ?_⟩
  unfold readTx
  cases hh : s.cfg.hardened <;> cases hv : s.txVerdict.ok <;> simp [hh, hv]

/-! ### Steps of the machine -/

/-- Only an offer in `IDLE` and a Controller step outside it run an instruction. -/
theorem act_cases (e : Event) (s : State) :
    (e = .controller ∧ s.ctl ≠ .idle ∧ act e s = exec (currentInstr s) s) ∨
    (e = .controller ∧ s.ctl = .idle ∧ act e s = .next s) ∨
    (∃ v, e = .host (.write goOffset v) ∧ s.ctl = .idle ∧ act e s = exec (stagedInstr s.staging) s) ∨
    (∃ v, e = .host (.write goOffset v) ∧ s.ctl ≠ .idle ∧ act e s = .next (refuseOffer s)) ∨
    (∃ o v, e = .host (.write o v) ∧ o ≠ goOffset ∧ act e s = .next (setStaging (stage o v s.staging) s)) ∨
    (∃ o, e = .host (.read o) ∧ act e s = .next (setHostData (hostRead o s) s)) ∨
    (e = .host .reset ∧ act e s = .next (resetInput s)) ∨
    (∃ b, e = .link (.receive b) ∧ act e s = .next (receive b s)) ∨
    (∃ v, e = .link (.verdict v) ∧ act e s = .next (setVerdict v s)) ∨
    (e = .clock ∧ act e s = .next (tick s)) := by
  cases e with
  | controller => cases h : s.ctl <;> simp [act, controllerStep, h]
  | clock => simp [act]
  | link a => cases a <;> simp [act, linkStep]
  | host a =>
    cases a with
    | read o => simp [act, hostStep]
    | reset => simp [act, hostStep]
    | write o v =>
      by_cases ho : o = goOffset
      · subst ho
        cases h : s.ctl <;> simp [act, hostStep, offer, h]
      · simp [act, hostStep, ho]

/-- The move is the agenda's head, or the free schedule's choice. -/
theorem step_cases (s : State) :
    (∃ e rest, s.agenda = e :: rest ∧ step s = act e { s with agenda := rest }) ∨
    (s.agenda = [] ∧ step s = act (Config.schedule s.moment) { s with moment := s.moment + 1 }) := by
  unfold step nextMove
  cases s.agenda <;> simp

end Sys2Proof.Machine
end

