-- ==== Sys2Proof/Laws/Listener.lean ====
section
/-! SUPPORT. The listener's collecting, said once in the closed form of `withBody`. -/

namespace Sys2Proof.Machine

section
variable (bs : List Byte) (l : ListenerRegs)
@[simp] theorem withBody_state : (withBody bs l).state = l.state := rfl
@[simp] theorem withBody_n : (withBody bs l).n = l.n := rfl
@[simp] theorem withBody_elapsed : (withBody bs l).elapsed = l.elapsed := rfl
@[simp] theorem withBody_idx : (withBody bs l).idx = l.idx + BitVec.ofNat 8 bs.length := rfl
end

/-- The byte at an index after one byte and then others are taken. -/
theorem bodyByteAt_cons (k i : Nat) (c old : Byte) (bs : List Byte) :
    bodyByteAt k i (c :: bs) old = bodyByteAt k (i + 1) bs (if i + 1 = k then c else old) := by
  unfold bodyByteAt
  rcases Nat.lt_trichotomy (i + 1) k with h | h | h
  · obtain ⟨d, rfl⟩ : ∃ d, k = i + 1 + (d + 1) := ⟨k - i - 2, by omega⟩
    have h1 : i + 1 + (d + 1) - i - 1 = d + 1 := by omega
    simp [h1, show i < i + 1 + (d + 1) by omega]
  · simp [← h]
  · simp [show ¬ i < k by omega, show ¬ i + 1 < k by omega, h.ne']

theorem withBody_nil (l : ListenerRegs) : withBody [] l = l := by
  simp [withBody, bodyByteAt]

/-- Taking the body one byte at a time is taking it at once. -/
theorem withBody_cons (c : Byte) (bs : List Byte) (l : ListenerRegs) (h : l.idx.toNat < l.n.toNat) :
    withBody (c :: bs) l = withBody bs (storeBodyByte c l) := by
  have h1 : (l.idx + 1).toNat = l.idx.toNat + 1 := by
    have := l.n.isLt
    rw [BitVec.toNat_add]; simp; omega
  have e (k : Byte) : (l.idx + 1 = k) ↔ l.idx.toNat + 1 = k.toNat := by
    rw [← h1]; exact BitVec.toNat_inj.symm
  have hi : l.idx + BitVec.ofNat 8 (c :: bs).length = l.idx + 1 + BitVec.ofNat 8 bs.length := by
    apply BitVec.eq_of_toNat_eq; simp [BitVec.toNat_add]; omega
  simp only [withBody, storeBodyByte, bodyByteAt_cons, hi, h1, e]
  rfl

/-- Collecting the bytes that the frame still lacks takes them all and leaves the rest. -/
theorem collectBody_all (bs rest : List Byte) (l : ListenerRegs) (h : l.idx.toNat + bs.length ≤ l.n.toNat)
    (hr : rest = [] ∨ l.idx.toNat + bs.length = l.n.toNat) :
    collectBody (bs ++ rest) l = (rest, withBody bs l) := by
  induction bs generalizing l with
  | nil =>
    rw [withBody_nil]
    rcases hr with rfl | hr
    · rfl
    · cases rest with
      | nil => rfl
      | cons c r =>
        have : ¬ l.idx < l.n := by simp only [BitVec.lt_def]; simp at hr; omega
        simp [collectBody, this]
  | cons c bs ih =>
    simp only [List.length_cons] at h hr
    have hlt : l.idx.toNat < l.n.toNat := by omega
    have h1 : (l.idx + 1).toNat = l.idx.toNat + 1 := by
      have := l.n.isLt
      rw [BitVec.toNat_add]; simp; omega
    rw [withBody_cons c bs l hlt, ← ih (storeBodyByte c l) (by simp only [storeBodyByte_idx, storeBodyByte_n, h1]; omega)
      (hr.imp_right fun hr => by simp only [storeBodyByte_idx, storeBodyByte_n, h1]; omega)]
    simp [collectBody, BitVec.lt_def, hlt]

end Sys2Proof.Machine
end

