-- ==== Sys2Proof/Laws/PerInstr.lean ====
section
/-! SUPPORT. A statement made for each instruction: the fixed bits of its table row stand in its encoding. -/

namespace Sys2Proof.Laws.FixedBits

/-- A command's encoding has the row's opcode in bits 3:0 (spec/opcode_table.json, R54, R56); a frame's begins with the sync
pair and the byte that counts the rest (R61), and is sent by the operation of its row (R62). -/
def Statement (i : Instr) : Prop :=
  ∀ p : Params, match encode p i with
    | .descriptor d => d.extractLsb' 0 4 = i.opcode
    | .frame op bytes => op = i.opcode ∧ bytes.take 3 = [0x5A, 0xA5, BitVec.ofNat 8 (bytes.length - 3)]

theorem frameOf_head (b : List Byte) :
    (frameOf b).take 3 = [0x5A, 0xA5, BitVec.ofNat 8 ((frameOf b).length - 3)] := by
  simp [frameOf, sync0, sync1]

theorem writeFloat (addr : Addr) (f : Word) : Statement (.writeFloat addr f) :=
  fun _ => packDescriptor_op _ _ _ _ _ _ _

theorem writeInt16 (addr : Addr) (v : BitVec 16) : Statement (.writeInt16 addr v) :=
  fun _ => packDescriptor_op _ _ _ _ _ _ _

theorem writeString (maxLen : Byte) (addr : Addr) (tlen : Byte) : Statement (.writeString maxLen addr tlen) :=
  fun _ => packDescriptor_op _ _ _ _ _ _ _

theorem setBuzzer (on : Bool) : Statement (.setBuzzer on) :=
  fun _ => packDescriptor_op _ _ _ _ _ _ _

theorem switchPage (page : Byte) : Statement (.switchPage page) :=
  fun _ => packDescriptor_op _ _ _ _ _ _ _

theorem appendCurvePoint (ch : Byte) : Statement (.appendCurvePoint ch) :=
  fun _ => packDescriptor_op _ _ _ _ _ _ _

theorem clearCurve : Statement .clearCurve :=
  fun _ => packDescriptor_op _ _ _ _ _ _ _

theorem pollEvent : Statement .pollEvent :=
  fun _ => packDescriptor_op _ _ _ _ _ _ _

theorem readText (maxLength : Byte) (addr : Addr) (timeout : Word) : Statement (.readText maxLength addr timeout) :=
  fun _ => packDescriptor_op _ _ _ _ _ _ _

theorem mergeAddress (hi lo : Byte) : Statement (.mergeAddress hi lo) :=
  fun _ => packDescriptor_op _ _ _ _ _ _ _

theorem splitAddress (addr : Addr) : Statement (.splitAddress addr) :=
  fun _ => packDescriptor_op _ _ _ _ _ _ _

theorem reserved0 : Statement .reserved0 :=
  fun _ => packDescriptor_op _ _ _ _ _ _ _

theorem reservedC : Statement .reservedC :=
  fun _ => packDescriptor_op _ _ _ _ _ _ _

theorem reservedD : Statement .reservedD :=
  fun _ => packDescriptor_op _ _ _ _ _ _ _

theorem reservedE : Statement .reservedE :=
  fun _ => packDescriptor_op _ _ _ _ _ _ _

theorem reservedF : Statement .reservedF :=
  fun _ => packDescriptor_op _ _ _ _ _ _ _

theorem frameWriteFloat (addr : Addr) (f : Word) : Statement (.frameWriteFloat addr f) :=
  fun _ => ⟨rfl, frameOf_head _⟩

theorem frameWriteInt16 (addr : Addr) (v : BitVec 16) : Statement (.frameWriteInt16 addr v) :=
  fun _ => ⟨rfl, frameOf_head _⟩

theorem frameWriteString (addr : Addr) (data : List Byte) : Statement (.frameWriteString addr data) :=
  fun _ => ⟨rfl, frameOf_head _⟩

theorem frameSetBuzzer (on : Bool) : Statement (.frameSetBuzzer on) :=
  fun _ => ⟨rfl, frameOf_head _⟩

theorem frameSwitchPage (page : Byte) : Statement (.frameSwitchPage page) :=
  fun _ => ⟨rfl, frameOf_head _⟩

theorem frameAppendCurvePoint (ch : Byte) : Statement (.frameAppendCurvePoint ch) :=
  fun _ => ⟨rfl, frameOf_head _⟩

theorem frameClearCurve : Statement .frameClearCurve :=
  fun _ => ⟨rfl, frameOf_head _⟩

theorem frameReadTextRequest (addr : Addr) (maxLength : Byte) : Statement (.frameReadTextRequest addr maxLength) :=
  fun _ => ⟨rfl, frameOf_head _⟩

end Sys2Proof.Laws.FixedBits
end

