-- ==== Sys2Proof/Tests/Slice0.lean ====
section
/-! SUPPORT. Tests: ill-formed terms, words of the spec, single steps of spec/95_test_vectors.md (its vector named at each), and
for each statement with hypotheses values that meet them. -/

namespace Sys2Proof.Tests

open Sys2Proof.Machine

/-! ### A machine to test on -/

/-- Parameters with a curve body of its own for channel 5. -/
def params (hardened : Bool) : Params :=
  { hardened := hardened
    buzzerAddr := 0x1234
    pagePrefix := #v[0x82, 0x00, 0x84, 0x5A, 0x01, 0x00]
    curveAppendBody := (Vector.replicate 256 #v[0x82, 0x03, 0x10, 0, 0, 0, 0, 0, 0, 0, 0]).set 5
      #v[0x82, 0x03, 0x10, 0x5A, 0xA5, 0x01, 0, 0, 0x05, 0x02, 0x00]
    curveClearBody := #v[0x82, 0x03, 0x01, 0x00, 0x00]
    frameTimeout := 5
    tickPeriod := 1
    rxCapacity := none }

/-- The reset state with concrete parameters and a Link that succeeds. -/
def start (hardened : Bool) : State :=
  { State.reset with cfg := params hardened, txVerdict := { ok := true, sent := 0 } }

/-- The block in a phase of operation `op`, with the given bytes received. -/
def inPhase (hardened : Bool) (c : Phase) (op : BitVec 4) (rx : List Byte) : State :=
  { start hardened with ctl := c, op := { Latch.zero with op := op }, rx := rx }

/-- The block idle with a descriptor staged. -/
def staged (hardened : Bool) (d : BitVec 96) : State :=
  { start hardened with staging := stageDescriptor d Staging.zero }

/-- What a view shows of the next state. -/
def see {α : Type} (f : State → α) (o : Host.Outcome State Fault Refusal) : Option α :=
  match o with
  | .next t => some (f t)
  | .fault _ => none
  | .refused _ => none

/-- The latch's text with `ABCDEFG` at its beginning. -/
def abcdefg : Vector Byte 255 :=
  Vector.ofFn fun k => [0x41, 0x42, 0x43, 0x44, 0x45, 0x46, 0x47].getD k.val 0

/-- What a poll shows: code, event, what is left in `RX`, the listener's state. -/
def pollView (t : State) : StatusCode × EventRegs × List Byte × LstState := (t.code, t.evt, t.rx, t.lst.state)

/-- A listener in the middle of the frame `04 82 12 ..` (vector P-14), ticks counted. -/
def partialFrame (elapsed : Word) : ListenerRegs :=
  { state := .collectingPayload, n := 0x04, idx := 2, cmd := 0x82, start := 0x12, stop := 0, data := 0, elapsed := elapsed }

/-- The text reader's registers in `RT_COPY`. -/
def copying (disc : BitVec 2) (reads : Byte) (elapsed : Word) : ReaderRegs :=
  { hdr := true, respLen := 6, disc := disc, reads := reads, timedOut := false, elapsed := elapsed }

/-- A read of `m` bytes in `RT_COPY` at the given progress. -/
def inCopy (hardened : Bool) (m : Byte) (disc : BitVec 2) (reads elapsed : BitVec 8) (rx : List Byte) : State :=
  { start hardened with
      ctl := .rtCopy
      op := { Latch.zero with op := 0x9, len8 := m, arg := 20 }
      rt := copying disc reads (elapsed.setWidth 32)
      textLen := reads
      rx := rx }

/-! ### Ill-formed terms -/

theorem test_wf_refuses_253 : (Instr.frameWriteString 0x5000 (List.replicate 253 0xFF)).wellFormed = false := by decide +kernel
theorem test_wf_refuses_87 : (Instr.frameWriteString 0x5000 (List.replicate 87 0xFF)).wellFormed = false := by decide +kernel
theorem test_wf_refuses_162 : (Instr.frameWriteString 0x5000 (List.replicate 162 0xFF)).wellFormed = false := by decide +kernel
theorem test_wf_accepts_252 : (Instr.frameWriteString 0x0000 (List.replicate 252 0xFF)).wellFormed = true := by decide +kernel

/-! ### Words of the spec's encodings -/

/-- Program 3. -/
theorem test_decode_write_float :
    decodeDescriptor 0x000000003F80000012340001 = .writeFloat 0x1234 0x3F800000 := by decide
/-- Vector E-8: `arg[31:16]` is ignored. -/
theorem test_decode_write_int16 :
    decodeDescriptor 0x00000000ABCD7FFF12340002 = .writeInt16 0x1234 0x7FFF := by decide
/-- Vector L1-7: maxLen 5, tlen 7. -/
theorem test_decode_write_string : decodeDescriptor 0x000700000000000050000503 = .writeString 5 0x5000 7 := by decide
/-- Vector E-18: only `arg[0]` is read. -/
theorem test_decode_set_buzzer : decodeDescriptor 0x00000000FFFFFFFE00000004 = .setBuzzer false := by decide
/-- Vector E-20. -/
theorem test_decode_switch_page : decodeDescriptor 0x000000000000010200000005 = .switchPage 0x02 := by decide
/-- Vector E-21. -/
theorem test_decode_append_curve : decodeDescriptor 0x000000000000010500000006 = .appendCurvePoint 0x05 := by decide
theorem test_decode_clear_curve : decodeDescriptor 0x000000000000000000000007 = .clearCurve := by decide
/-- Program 4. -/
theorem test_decode_poll_event : decodeDescriptor 0x000000000000000000000008 = .pollEvent := by decide
/-- Program 4. -/
theorem test_decode_read_text : decodeDescriptor 0x000000000000001420000309 = .readText 3 0x2000 20 := by decide
/-- Vector L1-11: `hi` 12, `lo` 34. -/
theorem test_decode_merge : decodeDescriptor 0x00003412000000000000000A = .mergeAddress 0x12 0x34 := by decide
/-- Program 3. -/
theorem test_decode_split : decodeDescriptor 0x00000000000000001234000B = .splitAddress 0x1234 := by decide
theorem test_decode_reserved0 : decodeDescriptor 0xFFFFFFFFFFFFFFFFFFFFFFF0 = .reserved0 := by decide
theorem test_decode_reservedC : decodeDescriptor 0xFFFFFFFFFFFFFFFFFFFFFFFC = .reservedC := by decide
theorem test_decode_reservedD : decodeDescriptor 0xFFFFFFFFFFFFFFFFFFFFFFFD = .reservedD := by decide
theorem test_decode_reservedE : decodeDescriptor 0xFFFFFFFFFFFFFFFFFFFFFFFE = .reservedE := by decide
theorem test_decode_reservedF : decodeDescriptor 0xFFFFFFFFFFFFFFFFFFFFFFFF = .reservedF := by decide
/-- Vector E-3. -/
theorem test_decode_frame_float :
    decodeFrame (params false) 0x1 [0x5A, 0xA5, 0x07, 0x82, 0x00, 0x10, 0x0F, 0xDB, 0x40, 0x49] =
      .ok (.frameWriteFloat 0x0010 0x40490FDB) := by decide
/-- Vector E-7. -/
theorem test_decode_frame_int16 :
    decodeFrame (params false) 0x2 [0x5A, 0xA5, 0x05, 0x82, 0x00, 0x01, 0x80, 0x00] =
      .ok (.frameWriteInt16 0x0001 0x8000) := by decide
/-- Vector L1-6. -/
theorem test_decode_frame_string :
    decodeFrame (params false) 0x3 [0x5A, 0xA5, 0x08, 0x82, 0x50, 0x00, 0x41, 0x42, 0x43, 0xFF, 0xFF] =
      .ok (.frameWriteString 0x5000 [0x41, 0x42, 0x43, 0xFF, 0xFF]) := by decide
/-- Vector E-17, `BUZZER_ADDR` being 1234. -/
theorem test_decode_frame_buzzer :
    decodeFrame (params false) 0x4 [0x5A, 0xA5, 0x05, 0x82, 0x12, 0x34, 0x00, 0x01] = .ok (.frameSetBuzzer true) := by decide
/-- Vector E-19. -/
theorem test_decode_frame_page :
    decodeFrame (params false) 0x5 [0x5A, 0xA5, 0x07, 0x82, 0x00, 0x84, 0x5A, 0x01, 0x00, 0x03] =
      .ok (.frameSwitchPage 0x03) := by decide
/-- Vector E-21. -/
theorem test_decode_frame_append :
    decodeFrame (params false) 0x6
      [0x5A, 0xA5, 0x0B, 0x82, 0x03, 0x10, 0x5A, 0xA5, 0x01, 0x00, 0x00, 0x05, 0x02, 0x00] =
      .ok (.frameAppendCurvePoint 0x05) := by decide +kernel
/-- Vector E-22. -/
theorem test_decode_frame_clear :
    decodeFrame (params false) 0x7 [0x5A, 0xA5, 0x05, 0x82, 0x03, 0x01, 0x00, 0x00] = .ok .frameClearCurve := by decide
/-- Vector L1-10. -/
theorem test_decode_frame_read :
    decodeFrame (params false) 0x9 [0x5A, 0xA5, 0x04, 0x83, 0x10, 0x00, 0x0A] =
      .ok (.frameReadTextRequest 0x1000 0x0A) := by decide

theorem test_decode_refuses_sync :
    decodeFrame (params false) 0x2 [0xA5, 0x5A, 0x05, 0x82, 0x00, 0x01, 0x80, 0x00] = .error .badSync := by decide
theorem test_decode_refuses_length :
    decodeFrame (params false) 0x2 [0x5A, 0xA5, 0x06, 0x82, 0x00, 0x01, 0x80, 0x00] = .error .badLength := by decide
theorem test_decode_refuses_command :
    decodeFrame (params false) 0x2 [0x5A, 0xA5, 0x05, 0x83, 0x00, 0x01, 0x80, 0x00] = .error .badCommand := by decide
theorem test_decode_refuses_buzzer_value :
    decodeFrame (params false) 0x4 [0x5A, 0xA5, 0x05, 0x82, 0x12, 0x34, 0x00, 0x02] = .error .badFixedByte := by decide

/-! ### Single steps -/

/-- Vector E-3. -/
theorem test_write_float_sends :
    see State.wire (exec (.writeFloat 0x0010 0x40490FDB) (inPhase false .encTx 0x1 [])) =
      some [0x5A, 0xA5, 0x07, 0x82, 0x00, 0x10, 0x0F, 0xDB, 0x40, 0x49] := by rfl
/-- Vector E-6. -/
theorem test_write_int16_sends :
    see State.wire (exec (.writeInt16 0x5000 0xFFFE) (inPhase false .encTx 0x2 [])) =
      some [0x5A, 0xA5, 0x05, 0x82, 0x50, 0x00, 0xFF, 0xFE] := by rfl
/-- Vector E-23: the drain stops at the first non-sync byte. -/
theorem test_write_int16_drains :
    see State.rx (exec (.writeInt16 0x5000 0x0001) (inPhase false .encSyncDrain 0x2 [0x5A, 0xA5, 0x5A, 0x03, 0x82, 0x4F, 0x4B])) =
      some [0x03, 0x82, 0x4F, 0x4B] := by rfl
/-- Vector L1-7. -/
theorem test_write_string_truncates :
    see (fun t => (t.wire, t.trunc)) (exec (.writeString 5 0x5000 7)
        { inPhase true .encTx 0x3 [] with op := { Latch.zero with op := 0x3, len8 := 5, tlen := 7, text := abcdefg } }) =
      some ([0x5A, 0xA5, 0x08, 0x82, 0x50, 0x00, 0x41, 0x42, 0x43, 0x44, 0x45], true) := by decide +kernel
/-- Vector E-12: nothing is sent and `RX` is not drained. -/
theorem test_write_string_refused :
    see (fun t => (t.wire, t.rx, t.code, t.ctl)) (exec (.writeString 87 0x5000 1) (inPhase true .encTx 0x3 [0x5A])) =
      some ([], [0x5A], .invalidArg, .idle) := by rfl
/-- Vector E-17. -/
theorem test_set_buzzer_sends :
    see State.wire (exec (.setBuzzer true) (inPhase false .encTx 0x4 [])) =
      some [0x5A, 0xA5, 0x05, 0x82, 0x12, 0x34, 0x00, 0x01] := by rfl
/-- Vector E-28: the cache is written and all is drained on failure too; hardened. -/
theorem test_switch_page_drains :
    see (fun t => (t.rx, t.pageCache, t.code, t.ctl))
        (exec (.switchPage 7) { inPhase true .encAllDrain 0x5 [0x11, 0x22] with txFail := true }) =
      some ([], 0x07, .transportError, .idle) := by rfl
/-- Vector E-21. -/
theorem test_append_curve_sends :
    see State.wire (exec (.appendCurvePoint 0x05) (inPhase false .encTx 0x6 [])) =
      some [0x5A, 0xA5, 0x0B, 0x82, 0x03, 0x10, 0x5A, 0xA5, 0x01, 0x00, 0x00, 0x05, 0x02, 0x00] := by rfl
/-- Vector E-22. -/
theorem test_clear_curve_sends :
    see State.wire (exec .clearCurve (inPhase false .encTx 0x7 [])) =
      some [0x5A, 0xA5, 0x05, 0x82, 0x03, 0x01, 0x00, 0x00] := by rfl
/-- Vector P-5: with one body byte, CMD and DATA are the same byte. -/
theorem test_poll_event_publishes :
    see pollView (exec .pollEvent { inPhase false .peCollect 0x8 [0x77] with
        lst := { ListenerRegs.zero with state := .collectingPayload, n := 0x01 } }) =
      some (.ok, { valid := true, start := 0x00, stop := 0x00, data := 0x77, cmd := 0x77, len := 0x01 }, [], .idle) := by rfl
/-- Vector P-18: at the deadline the byte 34 is consumed, then the frame is abandoned. -/
theorem test_poll_event_times_out :
    see pollView (exec .pollEvent { inPhase true .peStart 0x8 [0x34] with lst := partialFrame 9 }) =
      some (.frameTimeout, EventRegs.zero, [], .idle) := by rfl
/-- Vector T-8: a second byte that is not A5 is consumed with the first. -/
theorem test_read_text_seeks :
    see (fun t => (t.rx, t.rt.hdr)) (exec (.readText 2 0x6000 10)
        (inPhase false .rtWait 0x9 [0x5A, 0x5A, 0xA5, 0x06, 0x83, 0x60, 0x00, 0x41, 0x42])) =
      some ([0xA5, 0x06, 0x83, 0x60, 0x00, 0x41, 0x42], false) := by rfl
/-- Vector T-7: with T = 0 the first wait step times out though the response is buffered. -/
theorem test_read_text_times_out :
    see (fun t => (t.ctl, t.rt.timedOut)) (exec (.readText 4 0x6000 0)
        (inPhase true .rtWait 0x9 [0x5A, 0xA5, 0x07, 0x83, 0x60, 0x00, 0x41])) =
      some (.rtFinal, true) := by rfl
/-- Vector L1-11. -/
theorem test_merge_address : see State.mergeOut (exec (.mergeAddress 0x12 0x34) (inPhase false .codec 0xA [])) =
    some 0x1234 := by rfl
/-- Vector L1-2. -/
theorem test_split_address :
    see (fun t => (t.splitHi, t.splitLo)) (exec (.splitAddress 0xA55A) (inPhase false .codec 0xB [])) =
      some (0xA5, 0x5A) := by rfl
/-- R60. -/
theorem test_reserved0 : see (fun t => (t.code, t.ctl)) (exec .reserved0 (start true)) = some (.invalidOp, .idle) := by rfl
/-- R60. -/
theorem test_reservedC : see (fun t => (t.code, t.ctl)) (exec .reservedC (start false)) = some (.invalidOp, .idle) := by rfl
/-- R60. -/
theorem test_reservedD : see (fun t => (t.code, t.ctl)) (exec .reservedD (start false)) = some (.invalidOp, .idle) := by rfl
/-- R60. -/
theorem test_reservedE : see (fun t => (t.code, t.ctl)) (exec .reservedE (start false)) = some (.invalidOp, .idle) := by rfl
/-- R60. -/
theorem test_reservedF : see (fun t => (t.code, t.ctl)) (exec .reservedF (start false)) = some (.invalidOp, .idle) := by rfl
/-- Vector E-2. -/
theorem test_frame_write_float :
    see State.wire (exec (.frameWriteFloat 0x2000 0xC0200000) (inPhase false .encTx 0x1 [])) =
      some [0x5A, 0xA5, 0x07, 0x82, 0x20, 0x00, 0x00, 0x00, 0xC0, 0x20] := by rfl
/-- Vector E-8. -/
theorem test_frame_write_int16 :
    see State.wire (exec (.frameWriteInt16 0x1234 0x7FFF) (inPhase false .encTx 0x2 [])) =
      some [0x5A, 0xA5, 0x05, 0x82, 0x12, 0x34, 0x7F, 0xFF] := by rfl
/-- Vector E-16. -/
theorem test_frame_write_string :
    see State.wire (exec (.frameWriteString 0x5000 [0x41, 0xFF, 0x42, 0xFF]) (inPhase false .encTx 0x3 [])) =
      some [0x5A, 0xA5, 0x07, 0x82, 0x50, 0x00, 0x41, 0xFF, 0x42, 0xFF] := by rfl
/-- Vector E-18. -/
theorem test_frame_set_buzzer :
    see State.wire (exec (.frameSetBuzzer false) (inPhase false .encTx 0x4 [])) =
      some [0x5A, 0xA5, 0x05, 0x82, 0x12, 0x34, 0x00, 0x00] := by rfl
/-- Vector E-20. -/
theorem test_frame_switch_page :
    see State.wire (exec (.frameSwitchPage 0x02) (inPhase false .encTx 0x5 [])) =
      some [0x5A, 0xA5, 0x07, 0x82, 0x00, 0x84, 0x5A, 0x01, 0x00, 0x02] := by rfl
/-- Vector E-21. -/
theorem test_frame_append_curve :
    see State.wire (exec (.frameAppendCurvePoint 0x05) (inPhase false .encTx 0x6 [])) =
      some [0x5A, 0xA5, 0x0B, 0x82, 0x03, 0x10, 0x5A, 0xA5, 0x01, 0x00, 0x00, 0x05, 0x02, 0x00] := by rfl
/-- Vector E-22. -/
theorem test_frame_clear_curve :
    see State.ctl (exec .frameClearCurve (inPhase false .encTx 0x7 [])) = some .encSyncDrain := by rfl
/-- Vector L1-10; a failed request skips the wait in the hardened mode (vector T-13). -/
theorem test_frame_read_text_request :
    see (fun t => (t.wire, t.ctl)) (exec (.frameReadTextRequest 0x1000 0x0A)
        { inPhase true .rtTx 0x9 [] with txVerdict := { ok := false, sent := 2 } }) =
      some ([0x5A, 0xA5], .rtFinal) := by rfl

/-- Program 4: a poll offered while `BUSY` is refused. -/
theorem test_offer_while_busy :
    see (fun t => (t.ovr, t.ctl)) (act (.host (.write 0x02C 1)) (inCopy false 3 3 2 30 [])) = some (true, .rtCopy) := by rfl
/-- Program 2: `MISC` reads 00000200 after a text of two bytes. -/
theorem test_misc_reads : hostRead 0x010 { start false with textLen := 2 } = 0x00000200 := by decide
/-- Program 3: `CODEC` reads 34120000. -/
theorem test_codec_reads : hostRead 0x00C { start false with splitHi := 0x12, splitLo := 0x34 } = 0x34120000 := by decide
/-- A command placed after reset is accepted by the very next step (log entry 3). -/
theorem test_fetch_command :
    see (fun t => (t.ctl, latchInstr t.op)) (step (State.reset.withFetchWord 96 0x000000003F80000012340001)) =
      some (.encTx, .writeFloat 0x1234 0x3F800000) := by rfl
/-- A frame placed after reset is sent by the very next step (log entry 3). -/
theorem test_fetch_frame :
    see (fun t => (t.ctl, latchInstr t.op)) (step (State.reset.withFetchWord 64 0xFEFF00508205A55A)) =
      some (.encSyncDrain, .writeInt16 0x5000 0xFFFE) := by rfl

/-! ### Values that meet the statements' hypotheses

One theorem for each statement that has hypotheses, one part for each of its clauses, at the edges of its ranges. -/

/-- The operation latch of an encoder, poll, read or codec operation, in a phase, with operands. -/
def running (hardened : Bool) (c : Phase) (l : Latch) (rx : List Byte) : State :=
  { start hardened with ctl := c, op := l, rx := rx }

/-- A latch with an opcode, a length field and an argument. -/
def latchWith (op : BitVec 4) (len8 : Byte) (arg : Word) : Latch := { Latch.zero with op := op, len8 := len8, arg := arg }

/-- A poll that awaits its length byte. -/
def awaiting (hardened : Bool) (rx : List Byte) : State :=
  { inPhase hardened .peStart 0x8 rx with lst := { ListenerRegs.zero with state := .awaitingLength } }

/-- A poll in a phase with two of four body bytes taken. -/
def midFrame (hardened : Bool) (c : Phase) (elapsed : Word) (rx : List Byte) : State :=
  { inPhase hardened c 0x8 rx with lst := partialFrame elapsed }

/-- A read that waits with the header found. -/
def headerFound (rx : List Byte) : State :=
  { inPhase true .rtWait 0x9 rx with rt := copying 0 0 0 }

theorem witness_OfferIsLatchedOrRefused :
    (inPhase false .peCollect 0x8 []).ctl ≠ .idle ∧ (staged true 0x1).ctl = .idle ∧
    (accepted .idle (staged true 0x1)).op.op.toNat = 1 ∧ (accepted .idle (staged true 0x7)).op.op.toNat = 7 ∧
    (accepted .idle (staged true 0x8)).op.op.toNat = 8 ∧ (accepted .idle (staged true 0x9)).op.op.toNat = 9 ∧
    (accepted .idle (staged true 0xA)).op.op.toNat = 10 ∧ (accepted .idle (staged true 0xB)).op.op.toNat = 11 ∧
    (accepted .idle (staged true 0x0)).op.op.toNat = 0 ∧ (accepted .idle (staged true 0xC)).op.op.toNat = 12 ∧
    (accepted .idle (staged true 0xF)).op.op.toNat = 15 := by decide

theorem witness_LatchedCommandIsTheStagedOne :
    (staged false 0x000000003F80000012340001).ctl = .idle ∧
    stagedInstr (staged false 0x000000003F80000012340001).staging = .writeFloat 0x1234 0x3F800000 ∧
    ∃ t, exec (.writeFloat 0x1234 0x3F800000) (staged false 0x000000003F80000012340001) = .next t :=
  ⟨rfl, rfl, _, rfl⟩

theorem witness_ReservedOpcodesCompleteInvalid : (start false).ctl = .idle := rfl

theorem witness_WriteFloatRuns :
    (start true).ctl = .idle ∧ (inPhase true .encTx 0x1 []).ctl = .encTx ∧
    (inPhase true .encSyncDrain 0x1 [0x5A]).ctl = .encSyncDrain := by decide

theorem witness_WriteInt16Runs :
    (start true).ctl = .idle ∧ (inPhase true .encTx 0x2 []).ctl = .encTx ∧
    (inPhase true .encSyncDrain 0x2 [0x5A]).ctl = .encSyncDrain := by decide

theorem witness_WriteStringRuns :
    (start true).ctl = .idle ∧ (inPhase true .encTx 0x3 []).ctl = .encTx ∧
    (inPhase true .encSyncDrain 0x3 [0x5A]).ctl = .encSyncDrain ∧
    252 < (253 : Byte).toNat ∧ (87 : Byte).toNat = 87 ∧ (162 : Byte).toNat = 162 ∧
    ((252 : Byte).toNat ≤ 252 ∧ (252 : Byte).toNat ≠ 87 ∧ (252 : Byte).toNat ≠ 162) ∧
    ((0 : Byte).toNat ≤ 252 ∧ (0 : Byte).toNat ≠ 87 ∧ (0 : Byte).toNat ≠ 162) := by decide

theorem witness_SetBuzzerRuns :
    (start true).ctl = .idle ∧ (inPhase true .encTx 0x4 []).ctl = .encTx ∧
    (inPhase true .encSyncDrain 0x4 [0x5A]).ctl = .encSyncDrain := by decide

theorem witness_SwitchPageRuns :
    (start true).ctl = .idle ∧ (inPhase true .encTx 0x5 []).ctl = .encTx ∧
    (inPhase true .encAllDrain 0x5 [0x5A, 0x07]).ctl = .encAllDrain := by decide

theorem witness_AppendCurvePointRuns :
    (start true).ctl = .idle ∧ (inPhase true .encTx 0x6 []).ctl = .encTx ∧
    (inPhase true .encSyncDrain 0x6 [0x5A]).ctl = .encSyncDrain := by decide

theorem witness_ClearCurveRuns :
    (start true).ctl = .idle ∧ (inPhase true .encTx 0x7 []).ctl = .encTx ∧
    (inPhase true .encSyncDrain 0x7 [0x5A]).ctl = .encSyncDrain := by decide

theorem witness_FloatFrameRoundTrips :
    (inPhase true .encTx 0x1 []).ctl = .encTx ∧ (inPhase true .encTx 0x1 []).txVerdict.ok = true ∧
    ∃ t, exec (.writeFloat 0x0010 0x40490FDB) (inPhase true .encTx 0x1 []) = .next t :=
  ⟨rfl, rfl, _, rfl⟩

theorem witness_PostWriteDrainRemovesSyncRun :
    encoderInstr .clearCurve = true ∧ (∀ page, Instr.clearCurve ≠ .switchPage page) ∧
    (inPhase true .encSyncDrain 0x7 [0x5A, 0x07]).ctl = .encSyncDrain ∧
    latchInstr (inPhase true .encSyncDrain 0x7 [0x5A, 0x07]).op = .clearCurve ∧
    ∃ t, exec .clearCurve (inPhase true .encSyncDrain 0x7 [0x5A, 0x07]) = .next t :=
  ⟨rfl, fun _ => nofun, rfl, rfl, _, rfl⟩

theorem witness_EncoderCompletesInTwoSteps :
    ((inPhase true .encTx 0x7 []).ctl = .encTx ∧ 1 ≤ (inPhase true .encTx 0x7 []).op.op.toNat ∧
      (inPhase true .encTx 0x7 []).op.op.toNat ≤ 7 ∧
      (∀ e ∈ [Event.clock, .controller, .link (.receive 0x5A), .controller], e.ofBlockOrLink = true) ∧
      controllerCount [Event.clock, .controller, .link (.receive 0x5A), .controller] =
        (if (inPhase true .encTx 0x7 []).op.op.toNat = 3 ∧ stringArgsValid (inPhase true .encTx 0x7 []).op.len8 = false
          then 1 else 2)) ∧
    ((running true .encTx (latchWith 0x3 87 0) []).ctl = .encTx ∧
      1 ≤ (running true .encTx (latchWith 0x3 87 0) []).op.op.toNat ∧
      (running true .encTx (latchWith 0x3 87 0) []).op.op.toNat ≤ 7 ∧
      (∀ e ∈ [Event.controller], e.ofBlockOrLink = true) ∧
      (running true .encTx (latchWith 0x3 87 0) []).op.op.toNat = 3 ∧
      stringArgsValid (running true .encTx (latchWith 0x3 87 0) []).op.len8 = false ∧
      controllerCount [Event.controller] = 1) := by decide

theorem witness_EncoderLeavesOtherUnitsAlone :
    encoderInstr (.writeFloat 0 0) = true ∧ encoderInstr (.frameSwitchPage 0) = true ∧
    (∀ page, Instr.writeFloat 0 0 ≠ .switchPage page) := ⟨rfl, rfl, fun _ => nofun⟩

theorem witness_EncoderRunSendsItsFrame :
    ((staged true 0x000000003F80000012340001).ctl = .idle ∧
      stagedInstr (staged true 0x000000003F80000012340001).staging = .writeFloat 0x1234 0x3F800000 ∧
      latchFrame (latchOf (staged true 0x000000003F80000012340001).staging) = some (.frameWriteFloat 0x1234 0x3F800000) ∧
      encoderInstr (.frameWriteFloat 0x1234 0x3F800000) = true ∧
      encode (staged true 0x000000003F80000012340001).cfg (.frameWriteFloat 0x1234 0x3F800000) =
        .frame 0x1 [0x5A, 0xA5, 0x07, 0x82, 0x12, 0x34, 0x00, 0x00, 0x3F, 0x80] ∧
      (staged true 0x000000003F80000012340001).txVerdict.ok = true) ∧
    ((staged true 0x000000000000010200000005).ctl = .idle ∧
      stagedInstr (staged true 0x000000000000010200000005).staging = .switchPage 0x02 ∧
      latchFrame (latchOf (staged true 0x000000000000010200000005).staging) = some (.frameSwitchPage 0x02) ∧
      encoderInstr (.frameSwitchPage 0x02) = true ∧
      encode (staged true 0x000000000000010200000005).cfg (.frameSwitchPage 0x02) =
        .frame 0x5 [0x5A, 0xA5, 0x07, 0x82, 0x00, 0x84, 0x5A, 0x01, 0x00, 0x02] ∧
      (staged true 0x000000000000010200000005).txVerdict.ok = true) :=
  ⟨⟨rfl, rfl, rfl, rfl, rfl, rfl⟩, rfl, rfl, rfl, rfl, rfl, rfl⟩

theorem witness_PollAndReadAreAccepted :
    (start true).ctl = .idle ∧ ({ start true with lst := partialFrame 3 } : State).lst.state = .collectingPayload := by decide

theorem witness_LegacyPollReadsLength :
    (inPhase false .peStart 0x8 []).ctl = .peStart ∧ (inPhase false .peStart 0x8 []).cfg.hardened = false ∧
    (inPhase false .peStart 0x8 []).rx = [] ∧ (inPhase false .peStart 0x8 [0x00, 0x01]).rx = 0x00 :: [0x01] ∧
    (inPhase false .peStart 0x8 [0xFF]).rx = 0xFF :: [] ∧
    (0xFF : Byte) ≠ 0x5A ∧ (0xFF : Byte) ≠ 0xA5 ∧ (0xFF : Byte) ≠ 0x00 ∧
    (0x01 : Byte) ≠ 0x5A ∧ (0x01 : Byte) ≠ 0xA5 ∧ (0x01 : Byte) ≠ 0x00 := by decide

theorem witness_LegacyPollCollectsOneByte :
    (midFrame false .peCollect 0 []).ctl = .peCollect ∧ (midFrame false .peCollect 0 []).rx = [] ∧
    (midFrame false .peCollect 0 [0x34]).ctl = .peCollect ∧ (midFrame false .peCollect 0 [0x34]).rx = 0x34 :: [] ∧
    (midFrame false .peCollect 0 [0x34]).lst.idx + 1 ≠ (midFrame false .peCollect 0 [0x34]).lst.n ∧
    (inPhase false .peCollect 0x8 [0x77]).rx = 0x77 :: [] ∧
    ({ partialFrame 0 with idx := 3 } : ListenerRegs).idx + 1 = (partialFrame 0).n := by decide

theorem witness_LegacyPollHangs :
    (inPhase false .peCollect 0x8 []).ctl = .peCollect ∧ (inPhase false .peCollect 0x8 []).op.op = 0x8 ∧
    (inPhase false .peCollect 0x8 []).cfg.hardened = false ∧ (inPhase false .peCollect 0x8 []).rx = [] ∧
    (∀ e ∈ [Event.controller, .clock, .host (.write 0x02C 0), .host (.read 0x000)], e.bringsNothing = true) := by decide

theorem witness_LegacyPollDecodesBufferedFrame :
    ((awaiting false [0x01, 0x77]).ctl = .peStart ∧ (awaiting false [0x01, 0x77]).op.op = 0x8 ∧
      (awaiting false [0x01, 0x77]).cfg.hardened = false ∧ (awaiting false [0x01, 0x77]).lst.state = .awaitingLength ∧
      (0x01 : Byte) ≠ 0x5A ∧ (0x01 : Byte) ≠ 0xA5 ∧ (0x01 : Byte) ≠ 0x00 ∧ [(0x77 : Byte)].length = (0x01 : Byte).toNat ∧
      (awaiting false [0x01, 0x77]).rx = (0x01 : Byte) :: [0x77] ++ []) ∧
    ((0xFF : Byte) ≠ 0x5A ∧ (0xFF : Byte) ≠ 0xA5 ∧ (0xFF : Byte) ≠ 0x00 ∧
      (List.replicate 255 (0x00 : Byte)).length = (0xFF : Byte).toNat ∧
      (awaiting false (0xFF :: List.replicate 255 0x00)).rx = (0xFF : Byte) :: List.replicate 255 0x00 ++ []) := by
  decide +kernel

theorem witness_HardenedPollDecodesBufferedFrame :
    ((awaiting true [0x02, 0x82, 0x12, 0x99]).ctl = .peStart ∧ (awaiting true [0x02, 0x82, 0x12, 0x99]).cfg.hardened = true ∧
      (awaiting true [0x02, 0x82, 0x12, 0x99]).lst.state = .awaitingLength ∧
      (0x02 : Byte) ≠ 0x5A ∧ (0x02 : Byte) ≠ 0xA5 ∧ (0x02 : Byte) ≠ 0x00 ∧
      [(0x82 : Byte), 0x12].length = (0x02 : Byte).toNat ∧
      (awaiting true [0x02, 0x82, 0x12, 0x99]).rx = (0x02 : Byte) :: [0x82, 0x12] ++ [0x99]) ∧
    ((midFrame true .peStart 9 [0x34, 0x56]).ctl = .peStart ∧ (midFrame true .peStart 9 [0x34, 0x56]).cfg.hardened = true ∧
      (midFrame true .peStart 9 [0x34, 0x56]).lst.state = .collectingPayload ∧
      (midFrame true .peStart 9 [0x34, 0x56]).lst.idx.toNat + [(0x34 : Byte), 0x56].length =
        (midFrame true .peStart 9 [0x34, 0x56]).lst.n.toNat ∧
      (midFrame true .peStart 9 [0x34, 0x56]).rx = [0x34, 0x56] ++ [] ∧
      (midFrame true .peStart 9 [0x34, 0x56]).cfg.frameTimeout.toNat ≤
        (midFrame true .peStart 9 [0x34, 0x56]).lst.elapsed.toNat) := by decide

/-- Vector P-17: the Event that the statement's closed form gives for it. -/
theorem test_resumed_frame :
    pollView (published (withBody [0x34, 0x56] (partialFrame 9)) { midFrame true .peStart 9 [0x34, 0x56] with rx := [] }) =
      (.ok, { valid := true, cmd := 0x82, start := 0x12, stop := 0x34, data := 0x56, len := 0x04 }, [], .idle) := by rfl

theorem witness_HardenedPollNeverHolds :
    (inPhase true .peStart 0x8 []).ctl = .peStart ∧ (inPhase true .peStart 0x8 []).cfg.hardened = true ∧
    ((awaiting true []).ctl = .peStart ∧ (awaiting true []).cfg.hardened = true ∧ (awaiting true []).lst.state = .awaitingLength ∧
      (awaiting true []).rx = []) ∧
    ((awaiting true [0x00, 0x01]).lst.state = .awaitingLength ∧ (awaiting true [0x00, 0x01]).rx = 0x00 :: [0x01]) ∧
    ((awaiting true [0x5A]).rx = 0x5A :: [] ∧ (awaiting true [0xA5]).rx = 0xA5 :: []) := by decide

theorem witness_HardenedPartialFrameTimesOut :
    ((midFrame true .peStart 5 [0x34]).ctl = .peStart ∧ (midFrame true .peStart 5 [0x34]).cfg.hardened = true ∧
      (midFrame true .peStart 5 [0x34]).lst.state = .collectingPayload ∧
      (midFrame true .peStart 5 [0x34]).lst.idx.toNat + (midFrame true .peStart 5 [0x34]).rx.length <
        (midFrame true .peStart 5 [0x34]).lst.n.toNat ∧
      (midFrame true .peStart 5 [0x34]).cfg.frameTimeout.toNat ≤ (midFrame true .peStart 5 [0x34]).lst.elapsed.toNat) ∧
    (midFrame true .peStart 4 [0x34]).lst.elapsed.toNat < (midFrame true .peStart 4 [0x34]).cfg.frameTimeout.toNat ∧
    ((awaiting true [0x04, 0x82, 0x12]).ctl = .peStart ∧ (awaiting true [0x04, 0x82, 0x12]).cfg.hardened = true ∧
      (awaiting true [0x04, 0x82, 0x12]).lst.state = .awaitingLength ∧
      (0x04 : Byte) ≠ 0x5A ∧ (0x04 : Byte) ≠ 0xA5 ∧ (0x04 : Byte) ≠ 0x00 ∧
      (awaiting true [0x04, 0x82, 0x12]).rx = 0x04 :: [0x82, 0x12] ∧ [(0x82 : Byte), 0x12].length < (0x04 : Byte).toNat ∧
      (awaiting true [0x04, 0x82, 0x12]).cfg.frameTimeout ≠ 0) ∧
    ({ awaiting true [0x01] with cfg := { params true with frameTimeout := 0 } } : State).cfg.frameTimeout = 0 := by decide

theorem witness_PollLeavesOtherUnitsAlone :
    (inPhase true .peStart 0x8 []).ctl ≠ .idle ∧ (inPhase true .peStart 0x8 []).ctl = .peStart := by decide

theorem witness_ReadDrainsThenRequests :
    (inPhase true .rtPredrain 0x9 [0x99]).ctl = .rtPredrain ∧ (inPhase true .rtTx 0x9 []).ctl = .rtTx := by decide

theorem witness_ReadWaits :
    ((inPhase true .rtWait 0x9 []).ctl = .rtWait ∧ (0 : Word).toNat ≤ (inPhase true .rtWait 0x9 []).rt.elapsed.toNat) ∧
    ((inPhase true .rtWait 0x9 [0x5A, 0xA5, 0x06]).rt.elapsed.toNat < (1 : Word).toNat ∧
      (inPhase true .rtWait 0x9 [0x5A, 0xA5, 0x06]).rt.hdr = false ∧ 3 ≤ (inPhase true .rtWait 0x9 [0x5A, 0xA5, 0x06]).rx.length) ∧
    (inPhase true .rtWait 0x9 [0x5A, 0xA5]).rx.length < 3 ∧
    ((headerFound [0x83, 0x60]).ctl = .rtWait ∧ (headerFound [0x83, 0x60]).rt.elapsed.toNat < (1 : Word).toNat ∧
      (headerFound [0x83, 0x60]).rt.hdr = true ∧ (0 : Byte).toNat + 2 ≤ (headerFound [0x83, 0x60]).rx.length) ∧
    (headerFound [0x83]).rx.length < (0 : Byte).toNat + 2 := by decide

theorem witness_ReadSeeksHeader :
    (inPhase true .rtWait 0x9 [0x5A, 0xA5, 0x06]).ctl = .rtWait ∧
    (inPhase true .rtWait 0x9 [0x5A, 0xA5, 0x06]).rt.elapsed.toNat < (1 : Word).toNat ∧
    (inPhase true .rtWait 0x9 [0x5A, 0xA5, 0x06]).rt.hdr = false ∧
    (inPhase true .rtWait 0x9 [0x5A, 0xA5, 0x06]).rx = 0x5A :: 0xA5 :: 0x06 :: [] := by decide

theorem witness_ReadCopiesOneByte :
    (inCopy true 3 0 0 0 [0x83]).ctl = .rtCopy ∧
    ((inCopy true 3 2 0 0 [0x00]).rx = 0x00 :: [] ∧ (inCopy true 3 2 0 0 [0x00]).rt.disc.toNat < 3) ∧
    ((inCopy true 3 3 0 0 [0xFF]).rx = 0xFF :: [] ∧ (inCopy true 3 3 0 0 [0xFF]).rt.disc.toNat = 3) ∧
    ((inCopy true 255 3 254 0 [0x41]).rx = 0x41 :: [] ∧ (inCopy true 255 3 254 0 [0x41]).rt.disc.toNat = 3 ∧
      (0x41 : Byte) ≠ 0xFF ∧ (inCopy true 255 3 254 0 [0x41]).textLen.toNat < 255) ∧
    ((inCopy true 3 3 1 20 []).rx = [] ∧ (inCopy true 3 3 1 20 []).cfg.hardened = true ∧
      (20 : Word).toNat ≤ (inCopy true 3 3 1 20 []).rt.elapsed.toNat) ∧
    ((inCopy false 3 3 1 20 []).cfg.hardened = false ∧ (inCopy true 3 3 1 19 []).rt.elapsed.toNat < (20 : Word).toNat) := by
  decide

theorem witness_ReadFinishes : (inPhase true .rtFinal 0x9 [0x44]).ctl = .rtFinal := by decide

theorem witness_CopyTakesTextUpToSentinel :
    ((inCopy false 2 0 0 0 [0x83, 0x60, 0x00, 0x41, 0x42]).rx = 0x83 :: 0x60 :: 0x00 :: ([0x41, 0x42] ++ []) ∧
      [(0x41 : Byte), 0x42].length = (inCopy false 2 0 0 0 []).op.len8.toNat) ∧
    ((inCopy false 2 0 0 0 [0x83, 0x60, 0x00, 0xFF, 0x07]).rx = 0x83 :: 0x60 :: 0x00 :: ([] ++ [0xFF, 0x07]) ∧
      ([] : List Byte).length < (inCopy false 2 0 0 0 []).op.len8.toNat ∧ ∃ r, [(0xFF : Byte), 0x07] = 0xFF :: r) ∧
    ((inCopy false 0 0 0 0 [0x83, 0x60, 0x00]).rx = 0x83 :: 0x60 :: 0x00 :: ([] ++ []) ∧
      ([] : List Byte).length = (inCopy false 0 0 0 0 []).op.len8.toNat) ∧
    (∀ b ∈ [(0x41 : Byte), 0x42], b ≠ 0xFF) ∧ (inCopy false 2 0 0 0 []).ctl = .rtCopy ∧
    (inCopy false 2 0 0 0 []).op.op = 0x9 ∧ (inCopy false 2 0 0 0 []).rt.disc = 0 ∧ (inCopy false 2 0 0 0 []).rt.reads = 0 ∧
    (inCopy false 2 0 0 0 []).textLen = 0 :=
  ⟨⟨rfl, rfl⟩, ⟨rfl, by decide, _, rfl⟩, ⟨rfl, rfl⟩, by decide, rfl, rfl, rfl, rfl, rfl⟩

/-- A legacy read that timed out. -/
def timedOutRead : State :=
  { running false .rtFinal (latchWith 0x9 4 10) [0x44] with rt := { ReaderRegs.zero with timedOut := true, elapsed := 10 } }

theorem witness_LegacyTimeoutIsEmpty :
    timedOutRead.Consistent ∧ timedOutRead.cfg.hardened = false ∧ timedOutRead.ctl = .rtFinal ∧
    timedOutRead.rt.timedOut = true :=
  ⟨⟨rfl, ⟨by decide, by decide, by decide, by decide, by decide, by decide, by decide⟩, ⟨by decide, by decide⟩,
    ⟨by decide, by decide, by decide, by decide, by decide, by decide, by decide⟩, nofun, by decide, by decide⟩,
    rfl, rfl, rfl⟩

theorem witness_HardenedReadIsBounded :
    (inCopy true 3 3 2 30 []).Consistent ∧ (inCopy true 3 3 2 30 []).cfg.hardened = true ∧
    (inCopy true 3 3 2 30 []).ctl = .rtCopy ∧
    (inCopy true 3 3 2 30 []).op.arg.toNat ≤ (inCopy true 3 3 2 30 []).rt.elapsed.toNat ∧
    (∀ e ∈ List.replicate 8 Event.controller, e.ofBlockOrLink = true) ∧
    (inCopy true 3 3 2 30 []).op.len8.toNat + 5 ≤ controllerCount (List.replicate 8 Event.controller) :=
  ⟨⟨rfl, ⟨by decide, by decide, by decide, by decide, by decide, by decide, by decide⟩, ⟨by decide, by decide⟩,
    ⟨by decide, by decide, by decide, by decide, by decide, by decide, by decide⟩, nofun, by decide, by decide⟩,
    rfl, rfl, by decide, by decide, by decide⟩

theorem witness_LegacyCopyIsHeld :
    (inCopy false 3 3 2 30 []).ctl = .rtCopy ∧ (inCopy false 3 3 2 30 []).op.op = 0x9 ∧
    (inCopy false 3 3 2 30 []).cfg.hardened = false ∧ (inCopy false 3 3 2 30 []).rx = [] ∧
    (∀ e ∈ [Event.controller, .clock, .host (.write 0x02C 0), .host (.read 0x000)], e.bringsNothing = true) := by decide

theorem witness_ReaderLeavesOtherUnitsAlone :
    (inPhase true .rtWait 0x9 []).ctl ≠ .rtTx ∧ (inPhase true .rtWait 0x9 []).ctl ≠ .idle ∧
    (inPhase true .rtWait 0x9 []).ctl ≠ .rtFinal ∧ (inPhase true .rtWait 0x9 []).ctl ≠ .rtCopy ∧
    (254 : Nat) ≠ (inPhase true .rtWait 0x9 []).textLen.toNat ∧ readerPhase (inPhase true .rtWait 0x9 []).ctl = true := by decide

theorem witness_CodecOperationsRun :
    (start true).ctl = .idle ∧ (inPhase true .codec 0xA []).ctl = .codec ∧ (inPhase true .codec 0xB []).ctl = .codec := by decide

theorem witness_CodecRoundTrips :
    (inPhase true .codec 0xB []).ctl = .codec ∧
    (∃ t, exec (.splitAddress 0xA55A) (inPhase true .codec 0xB []) = .next t) ∧
    ∃ t, exec (.mergeAddress 0xA5 0x5A) (inPhase true .codec 0xA []) = .next t :=
  ⟨rfl, ⟨_, rfl⟩, _, rfl⟩

theorem witness_CodecLeavesOtherUnitsAlone :
    (∃ h l, Instr.mergeAddress 0x12 0x34 = .mergeAddress h l) ∧ (∃ a, Instr.splitAddress 0x1234 = .splitAddress a) ∧
    (inPhase true .codec 0xA []).ctl ≠ .idle ∧ (inPhase true .codec 0xA []).ctl = .codec :=
  ⟨⟨_, _, rfl⟩, ⟨_, rfl⟩, by decide, rfl⟩

theorem witness_FramesAreSentByteForByte :
    (inPhase true .encTx 0x1 []).ctl = .encTx ∧ (inPhase true .rtTx 0x9 []).ctl = .rtTx ∧
    (latchWith 0x3 252 0).op = 0x3 ∧ (latchWith 0x3 252 0).len8.toNat ≤ 252 ∧ (latchWith 0x3 252 0).len8.toNat ≠ 87 ∧
    (latchWith 0x3 252 0).len8.toNat ≠ 162 ∧ (latchWith 0x9 0 0).op = 0x9 ∧ (latchWith 0x1 0 0).op = 0x1 ∧
    (latchWith 0x2 0 0).op = 0x2 ∧ (latchWith 0x4 0 0).op = 0x4 ∧ (latchWith 0x5 0 0).op = 0x5 ∧
    (latchWith 0x6 0 0).op = 0x6 ∧ (latchWith 0x7 0 0).op = 0x7 := by decide

theorem witness_StatusWordLayout :
    (inPhase true .rtWait 0x9 []).ctl ≠ .idle ∧ (start true).ctl = .idle ∧ (start true).code = .ok ∧
    (start true).lst.state = .idle ∧ (awaiting true []).lst.state = .awaitingLength ∧
    (midFrame true .peStart 0 []).lst.state = .collectingPayload ∧
    (∀ c ∈ [StatusCode.noEvent, .frameTimeout, .readTimeout, .transportError, .truncated, .invalidArg, .invalidOp],
      ({ start true with code := c } : State).code = c) := by decide

theorem witness_HostReadHasNoSideEffect : (0x020 : Nat) ≠ 0x02C ∧ (0x200 : Nat) ≠ 0x02C := by decide

theorem witness_TransmitPhaseRunsTheOperation :
    ((inPhase true .encTx 0x1 []).ctl = .encTx ∧
      phaseFits (inPhase true .encTx 0x1 []).ctl (inPhase true .encTx 0x1 []).op.op = true) ∧
    ((inPhase true .rtTx 0x9 []).ctl = .rtTx ∧
      phaseFits (inPhase true .rtTx 0x9 []).ctl (inPhase true .rtTx 0x9 []).op.op = true) := by decide

theorem witness_EveryFrameIsWellFramed :
    latchFrame (latchWith 0x9 0x0A 5) = some (.frameReadTextRequest 0x0000 0x0A) ∧
    encode (params true) (.frameReadTextRequest 0x0000 0x0A) = .frame 0x9 [0x5A, 0xA5, 0x04, 0x83, 0x00, 0x00, 0x0A] ∧
    latchFrame (latchWith 0x3 0 0) = some (.frameWriteString 0x0000 []) := by decide +kernel

/-- Parameters in which every channel has a body of its own. -/
def distinctCurves : Params :=
  { params true with curveAppendBody := Vector.ofFn fun ch => Vector.replicate 11 (BitVec.ofNat 8 ch.val) }

theorem witness_DecodeOfEncode :
    (Instr.frameAppendCurvePoint 0xFF).wellFormed = true ∧
    (∀ ch, Instr.frameAppendCurvePoint 0xFF = .frameAppendCurvePoint ch →
      ∀ ch', bodyAppendCurvePoint distinctCurves ch' = bodyAppendCurvePoint distinctCurves ch → ch' = ch) ∧
    (Instr.frameWriteString 0x5000 [0x41]).wellFormed = true := by
  refine ⟨rfl, fun ch _ ch' h => ?_, rfl⟩
  have h0 := congrArg (fun l => l[0]?) h
  simpa [bodyAppendCurvePoint, distinctCurves] using h0

theorem witness_EncodeOfDecodedFrame :
    decode (params true) (.frame 0x2 [0x5A, 0xA5, 0x05, 0x82, 0x00, 0x01, 0x80, 0x00]) =
      .ok (.frameWriteInt16 0x0001 0x8000) := by decide

theorem witness_UnusedBitsAreIgnored :
    (∀ k, k < 96 → ¬ (4 ≤ k ∧ k < 8) → ¬ (88 ≤ k) → (0xF3 : BitVec 96).getLsbD k = (0x03 : BitVec 96).getLsbD k) ∧
    (0xFF000000FFFFFFFE00000004 : BitVec 96).extractLsb' 0 4 = (0x4 : BitVec 96).extractLsb' 0 4 ∧
    (0xFF000000FFFFFFFE00000004 : BitVec 96).extractLsb' 0 4 = 4 ∧
    (0xFF000000FFFFFFFE00000004 : BitVec 96).getLsbD 32 = (0x4 : BitVec 96).getLsbD 32 ∧
    (0x1 : BitVec 96).extractLsb' 0 4 = 1 ∧ (0x2 : BitVec 96).extractLsb' 0 4 = 2 ∧ (0x3 : BitVec 96).extractLsb' 0 4 = 3 ∧
    (0x5 : BitVec 96).extractLsb' 0 4 = 5 ∧ (0x6 : BitVec 96).extractLsb' 0 4 = 6 ∧ (0x7 : BitVec 96).extractLsb' 0 4 = 7 ∧
    (0x8 : BitVec 96).extractLsb' 0 4 = 8 ∧ (0x9 : BitVec 96).extractLsb' 0 4 = 9 ∧ (0xA : BitVec 96).extractLsb' 0 4 = 10 ∧
    (0xB : BitVec 96).extractLsb' 0 4 = 11 ∧ (0x0 : BitVec 96).extractLsb' 0 4 = 0 ∧
    12 ≤ ((0xC : BitVec 96).extractLsb' 0 4).toNat ∧
    [(0x41 : Byte), 0x42].take (1 : Byte).toNat = [(0x41 : Byte), 0x43].take (1 : Byte).toNat := by
  refine ⟨?_, by decide⟩
  decide +kernel

theorem witness_RegisterMapReadsAndWrites :
    (0 : Nat) < 255 ∧ (254 : Nat) < 255 ∧
    (0x014 ∉ [0x000, 0x004, 0x008, 0x00C, 0x010, 0x020, 0x024, 0x028] ∧ ¬ (0x100 ≤ 0x014 ∧ 0x014 < 0x1FF) ∧
      ¬ (0x200 ≤ 0x014 ∧ 0x014 < 0x2FF)) ∧
    (0x1FF ∉ [0x000, 0x004, 0x008, 0x00C, 0x010, 0x020, 0x024, 0x028] ∧ ¬ (0x100 ≤ 0x1FF ∧ 0x1FF < 0x1FF) ∧
      ¬ (0x200 ≤ 0x1FF ∧ 0x1FF < 0x2FF)) ∧
    (0x100 ∉ [0x020, 0x024, 0x028, 0x02C] ∧ ¬ (0x200 ≤ 0x100 ∧ 0x100 < 0x2FF)) := by decide

theorem witness_TickCountsElapsedTime :
    ((inPhase true .rtWait 0x9 []).ctl = .rtWait ∧ (inCopy true 3 0 0 0 []).ctl = .rtCopy) ∧
    ((start true).ctl ≠ .rtWait ∧ (start true).ctl ≠ .rtCopy) ∧
    ((start true).cfg.hardened = true ∧ ({ start true with lst := partialFrame 0xFFFFFFFF } : State).lst.state = .collectingPayload) ∧
    ((start false).cfg.hardened = false ∧ (start true).lst.state ≠ .collectingPayload) := by decide

theorem witness_TicksSaturate :
    (headerFound []).ctl = .rtWait ∧
    ({ headerFound [] with lst := partialFrame 0xFFFFFFFE } : State).cfg.hardened = true ∧
    ({ headerFound [] with lst := partialFrame 0xFFFFFFFE } : State).lst.state = .collectingPayload := by decide

theorem witness_ReceivedByteIsAppended :
    (start true).cfg.rxCapacity = none ∧
    (∃ c, ({ start true with cfg := { params true with rxCapacity := some 1 } } : State).cfg.rxCapacity = some c ∧
      ({ start true with cfg := { params true with rxCapacity := some 1 } } : State).rx.length < c) ∧
    ∃ c, ({ start true with cfg := { params true with rxCapacity := some 1 }, rx := [0x5A] } : State).cfg.rxCapacity = some c ∧
      c ≤ ({ start true with cfg := { params true with rxCapacity := some 1 }, rx := [0x5A] } : State).rx.length :=
  ⟨rfl, ⟨1, rfl, by decide⟩, 1, rfl, by decide⟩

/-- A legacy block about to take a body byte, a Controller step next. -/
def collecting : State :=
  { inPhase false .peCollect 0x8 [0x34] with
      lst := { ListenerRegs.zero with state := .collectingPayload, n := 1 }, agenda := [.controller] }

theorem collecting_consistent : collecting.Consistent :=
  ⟨rfl, ⟨by decide, by decide, by decide, by decide, by decide, by decide, by decide⟩, ⟨by decide, by decide⟩,
    ⟨by decide, by decide, by decide, by decide, by decide, by decide, by decide⟩, nofun, by decide, by decide⟩

theorem witness_StepKeepsConsistent : collecting.Consistent ∧ ∃ t, step collecting = .next t :=
  ⟨collecting_consistent, _, rfl⟩

theorem witness_LegacyListenerIsIdleBetweenPolls :
    collecting.Consistent ∧ ∃ t, step collecting = .next t ∧ t.cfg.hardened = false ∧ t.ctl = .idle :=
  ⟨collecting_consistent, _, rfl, rfl, rfl⟩

theorem witness_WireOnlyGrows :
    (∃ t, act .clock (inPhase false .encTx 0x7 []) = .next t ∧ t.wire = (inPhase false .encTx 0x7 []).wire) ∧
    ∃ t, act .controller (inPhase false .encTx 0x7 []) = .next t ∧ t.wire ≠ (inPhase false .encTx 0x7 []).wire :=
  ⟨⟨_, rfl, rfl⟩, _, rfl, by decide⟩

theorem witness_ConfigurationNeverChanges : ∃ t, step collecting = .next t := ⟨_, rfl⟩

theorem witness_ResultsChangeOnlyByTheirOperation :
    (phaseFits collecting.ctl collecting.op.op = true ∧ ∃ t, act .controller collecting = .next t ∧ t.evt ≠ collecting.evt) ∧
    (phaseFits (running true .encAllDrain (latchWith 0x5 0 7) []).ctl (running true .encAllDrain (latchWith 0x5 0 7) []).op.op = true ∧
      ∃ t, act .controller (running true .encAllDrain (latchWith 0x5 0 7) []) = .next t ∧
        t.pageCache ≠ (running true .encAllDrain (latchWith 0x5 0 7) []).pageCache) ∧
    Event.controller ≠ .host .reset :=
  ⟨⟨rfl, _, rfl, by decide⟩, ⟨rfl, _, rfl, by decide⟩, by decide⟩

theorem witness_StepRunsTheFetchedInstruction :
    (collecting.agenda = .controller :: [] ∧ collecting.ctl ≠ .idle ∧ currentInstr collecting = .pollEvent) ∧
    (start true).agenda = [] ∧
    (({ staged true 0x8 with agenda := [.host (.write 0x02C 1)] } : State).agenda = .host (.write 0x02C 1) :: [] ∧
      ({ staged true 0x8 with agenda := [.host (.write 0x02C 1)] } : State).ctl = .idle ∧
      stagedInstr ({ staged true 0x8 with agenda := [.host (.write 0x02C 1)] } : State).staging = .pollEvent) := by decide

end Sys2Proof.Tests
end

section
/-! SUPPORT. The Host's side of spec/10_state.md R20 and R30: the fields of the words the Host reads, what its writes and
offers do, and the two obligations these settle. -/

namespace Sys2Proof.Machine

/-! ### The status word's fields (R20) -/

/-- A flag placed lowest in a word is its bit 0. -/
theorem getLsbD_append_ofBool {n : Nat} (x : BitVec n) (b : Bool) : (x ++ BitVec.ofBool b).getLsbD 0 = b := by
  simp only [BitVec.getLsbD_append, Nat.zero_lt_one, if_true, BitVec.getLsbD_ofBool, decide_true, Bool.true_and]

section
variable (s : State)

theorem statusWord_busy : (statusWord s).getLsbD 0 = busy s :=
  getLsbD_append_ofBool _ _

theorem statusWord_ovr : (statusWord s).getLsbD 1 = s.ovr :=
  (BitVec.getLsbD_append ..).trans (getLsbD_append_ofBool _ _)

theorem statusWord_reservedLow : (statusWord s).extractLsb' 2 2 = 0 :=
  (extract_append_high _ _ 1 2).trans <| (extract_append_high _ _ 0 2).trans <| extract_append_low _ _

theorem statusWord_code : (statusWord s).extractLsb' 4 4 = codeBits s.code :=
  (extract_append_high _ _ 3 4).trans <| (extract_append_high _ _ 2 4).trans <|
    (extract_append_high _ _ 0 4).trans <| extract_append_low _ _

theorem statusWord_lst : (statusWord s).extractLsb' 8 2 = lstBits s.lst.state :=
  (extract_append_high _ _ 7 2).trans <| (extract_append_high _ _ 6 2).trans <|
    (extract_append_high _ _ 4 2).trans <| (extract_append_high _ _ 0 2).trans <| extract_append_low _ _

theorem statusWord_reservedHigh : (statusWord s).extractLsb' 10 22 = 0 :=
  (extract_append_high _ _ 9 22).trans <| (extract_append_high _ _ 8 22).trans <|
    (extract_append_high _ _ 6 22).trans <| (extract_append_high _ _ 2 22).trans <|
    (extract_append_high _ _ 0 22).trans rfl

theorem statusWord_resetInput : statusWord (resetInput s) = 0 := by
  simp [statusWord, busy, codeBits, lstBits, ListenerRegs.zero]
end

/-! ### The words at the offsets (R30) -/

/-- The parts of a word made of three. -/
theorem extract_append_three {a b c : Nat} (x : BitVec a) (y : BitVec b) (z : BitVec c) :
    (x ++ y ++ z).extractLsb' 0 c = z ∧ (x ++ y ++ z).extractLsb' c b = y ∧ (x ++ y ++ z).extractLsb' (c + b) a = x :=
  ⟨extract_append_low _ z, (extract_append_high _ z 0 b).trans (extract_append_low x y),
    (extract_append_high _ z b a).trans <| (extract_append_high x y 0 a).trans (by simp)⟩

/-- The parts of a word made of four. -/
theorem extract_append_four {a b c d : Nat} (x : BitVec a) (y : BitVec b) (z : BitVec c) (w : BitVec d) :
    (x ++ y ++ z ++ w).extractLsb' 0 d = w ∧ (x ++ y ++ z ++ w).extractLsb' d c = z ∧
      (x ++ y ++ z ++ w).extractLsb' (d + c) b = y ∧ (x ++ y ++ z ++ w).extractLsb' (d + (c + b)) a = x := by
  obtain ⟨hz, hy, hx⟩ := extract_append_three x y z
  exact ⟨extract_append_low _ w, (extract_append_high _ w 0 c).trans hz, (extract_append_high _ w c b).trans hy,
    (extract_append_high _ w (c + b) a).trans hx⟩

section
variable (s : State)

theorem hostRead_status : hostRead 0x000 s = statusWord s := rfl

theorem hostRead_eventHead :
    hostRead 0x004 s = (0 : Byte) ++ s.evt.len ++ s.evt.cmd ++ (0 : BitVec 7) ++ BitVec.ofBool s.evt.valid := rfl

theorem hostRead_eventBody : hostRead 0x008 s = (0 : Byte) ++ s.evt.data ++ s.evt.stop ++ s.evt.start := rfl

theorem hostRead_codec : hostRead 0x00C s = s.splitLo ++ s.splitHi ++ s.mergeOut := rfl

theorem hostRead_misc : hostRead 0x010 s = (0 : BitVec 16) ++ s.textLen ++ s.pageCache := rfl

theorem hostRead_textBuf {k : Nat} (h : k < 255) : hostRead (0x100 + k) s = (s.textBuf[k]).setWidth 32 := by
  simp (disch := omega) only [hostRead, if_neg, if_pos]
  simp [h]

theorem hostRead_textIn {k : Nat} (h : k < 255) :
    hostRead (0x200 + k) s = (s.staging.textIn[k]).setWidth 32 := by
  simp (disch := omega) only [hostRead, if_neg, if_pos]
  simp [h]

theorem hostRead_unlisted {offset : Nat}
    (hwords : offset ∉ [0x000, 0x004, 0x008, 0x00C, 0x010, 0x020, 0x024, 0x028])
    (hbuf : ¬ (0x100 ≤ offset ∧ offset < 0x1FF)) (hin : ¬ (0x200 ≤ offset ∧ offset < 0x2FF)) :
    hostRead offset s = 0 := by
  simp only [List.mem_cons, List.not_mem_nil, or_false, not_or] at hwords
  simp [hostRead, hwords, hbuf, hin]
end

theorem extract_setWidth_byte (b : Byte) : (b.setWidth 32).extractLsb' 0 8 = b := by
  rw [← BitVec.setWidth_eq_extractLsb' (by decide)]
  simp

/-! ### Host writes other than to `GO` (R19, R30) -/

section
variable (g : Staging) (v : Word)

theorem stage_textIn (b : Byte) {k : Nat} (h : k < 255) :
    stage (0x200 + k) (b.setWidth 32) g = { g with textIn := g.textIn.set k b h } := by
  simp (disch := omega) only [stage, if_neg, if_pos]
  simp [Vector.setIfInBounds, Array.setIfInBounds, h]

theorem stage_ignored {offset : Nat} (hwords : offset ∉ [0x020, 0x024, 0x028])
    (hin : ¬ (0x200 ≤ offset ∧ offset < 0x2FF)) : stage offset v g = g := by
  simp only [List.mem_cons, List.not_mem_nil, or_false, not_or] at hwords
  simp [stage, hwords, hin]
end

theorem act_write {offset : Nat} (v : Word) (s : State) (h : offset ≠ goOffset) :
    act (.host (.write offset v)) s = .next (setStaging (stage offset v s.staging) s) :=
  if_neg h

/-- A write outside the staging registers, and not to `GO`, changes nothing. -/
theorem act_write_ignored {offset : Nat} (v : Word) (s : State) (hwords : offset ∉ [0x020, 0x024, 0x028, 0x02C])
    (hin : ¬ (0x200 ≤ offset ∧ offset < 0x2FF)) : act (.host (.write offset v)) s = .next s := by
  simp only [List.mem_cons, List.not_mem_nil, or_false, not_or] at hwords
  rw [act_write v s (by simp [goOffset, hwords]), stage_ignored _ _ (by simp [hwords]) hin]
  rfl

/-! ### Offers (spec/30_encoding.md R58) -/

/-- The state after the acceptance of a command with the given opcode (R58 to R60, R86, R104). -/
def acceptCommand (op : BitVec 4) (s : State) : State :=
  match op.toNat with
  | 0x1 | 0x2 | 0x3 | 0x4 | 0x5 | 0x6 | 0x7 => acceptInto .encTx s
  | 0x8 => acceptPoll s
  | 0x9 => acceptRead s
  | 0xA | 0xB => acceptInto .codec s
  | _ => complete .invalidOp (latch s)

/-- In `IDLE` a command is accepted, and how depends on its opcode alone. -/
theorem exec_command_idle {i : Instr} {s : State} (hi : frameCommand i = none) (h : s.ctl = .idle) :
    exec i s = .next (acceptCommand i.opcode s) := by
  have hcodec (w : State → State) : codecOp w s = acceptInto .codec s := by simp [codecOp, h]
  have hreserved : reservedOp s = complete .invalidOp (latch s) := by simp [reservedOp, h]
  cases i with
  | writeFloat | writeInt16 | writeString | setBuzzer | appendCurvePoint | clearCurve =>
    exact congrArg _ (encoderOp_idle _ h)
  | switchPage page => simp [exec, execSwitchPage, h, acceptCommand, Instr.opcode]
  | pollEvent => simp [exec, execPollEvent, h, acceptCommand, Instr.opcode]
  | readText m addr t => simp [exec, execReadText, h, acceptCommand, Instr.opcode]
  | mergeAddress | splitAddress => exact congrArg _ (hcodec _)
  | reserved0 | reservedC | reservedD | reservedE | reservedF => exact congrArg _ hreserved
  | frameWriteFloat | frameWriteInt16 | frameWriteString | frameSetBuzzer | frameSwitchPage | frameAppendCurvePoint
  | frameClearCurve | frameReadTextRequest => cases hi

/-- A descriptor is decoded to a command, never to a frame. -/
theorem frameCommand_stagedInstr (g : Staging) : frameCommand (stagedInstr g) = none := by
  unfold stagedInstr decodeDescriptor decodeFields
  split <;> rfl

theorem stagedInstr_opcode (g : Staging) : (stagedInstr g).opcode = (latchOf g).op := by
  rw [← latchInstr_latchOf, latchInstr, decodeFields_opcode]

theorem act_go_idle (v : Word) {s : State} (h : s.ctl = .idle) :
    act (.host (.write goOffset v)) s = .next (acceptCommand (latchOf s.staging).op s) := by
  rw [← stagedInstr_opcode, ← exec_command_idle (frameCommand_stagedInstr _) h]
  simp [act, hostStep, offer, h]

theorem act_go_busy (v : Word) {s : State} (h : s.ctl ≠ .idle) :
    act (.host (.write goOffset v)) s = .next (refuseOffer s) := by
  cases hctl : s.ctl with
  | idle => exact absurd hctl h
  | _ => simp [act, hostStep, offer, hctl]

theorem acceptPoll_ovr (s : State) : (acceptPoll s).ovr = false := by
  rcases acceptPoll_cases s with ⟨-, h⟩ | ⟨-, h⟩ <;> rw [h] <;> rfl

theorem acceptRead_ovr (s : State) : (acceptRead s).ovr = false := by
  unfold acceptRead
  dsimp only
  split <;> rfl

/-- Every acceptance clears `OVR` (R20, R58). -/
theorem acceptCommand_ovr (op : BitVec 4) (s : State) : (acceptCommand op s).ovr = false := by
  unfold acceptCommand
  split
  case h_8 => exact acceptPoll_ovr s
  case h_9 => exact acceptRead_ovr s
  all_goals rfl

/-! ### The obligations -/

/-- Settles O47: each field of `STATUS` from its place in the word, `OVR` from the two answers to an offer. -/
theorem statusWordLayout : Obligations.StatusWordLayout := by
  intro v s
  refine ⟨statusWord_busy s, statusWord_ovr s, statusWord_reservedLow s, ?_, ?_, ?_, ?_, ?_, ?_, ?_, ?_, ?_, ?_, ?_,
    statusWord_reservedHigh s, hostRead_status s, act_write_ignored v s (by decide) (by decide),
    fun hbusy => ⟨_, act_go_busy v hbusy, rfl⟩, fun hidle => ⟨_, act_go_idle v hidle, acceptCommand_ovr _ s⟩,
    _, rfl, statusWord_resetInput s⟩
  all_goals
    intro hvalue
    simp only [statusWord_code, statusWord_lst, hvalue, codeBits, lstBits]

/-- Settles O48: each word's fields from their places in it, the arrays element by element, and the effect of each write. -/
theorem registerMapReadsAndWrites : Obligations.RegisterMapReadsAndWrites := by
  intro s
  refine ⟨hostRead_status s, ?eventHead, ?eventBody, ?codec, ?misc, rfl, rfl, rfl,
    hostRead_unlisted s (by decide) (by decide) (by decide), ?arrays, fun _ => hostRead_unlisted s, fun v => ?writes⟩
  case eventHead =>
    rw [hostRead_eventHead]
    obtain ⟨hreserved, hcmd, hlen, hhigh⟩ := extract_append_four (0 : Byte) s.evt.len s.evt.cmd (0 : BitVec 7)
    exact ⟨getLsbD_append_ofBool _ _, (extract_append_high _ _ 0 7).trans hreserved,
      (extract_append_high _ _ 7 8).trans hcmd, (extract_append_high _ _ 15 8).trans hlen,
      (extract_append_high _ _ 23 8).trans hhigh⟩
  case eventBody =>
    rw [hostRead_eventBody]
    exact extract_append_four 0 s.evt.data s.evt.stop s.evt.start
  case codec =>
    rw [hostRead_codec]
    exact extract_append_three s.splitLo s.splitHi s.mergeOut
  case misc =>
    rw [hostRead_misc]
    exact extract_append_three 0 s.textLen s.pageCache
  case arrays =>
    intro k h
    rw [hostRead_textBuf s h, hostRead_textIn s h]
    exact ⟨extract_setWidth_byte _, extract_setWidth_byte _⟩
  case writes =>
    refine ⟨act_write v s (by decide), act_write v s (by decide), act_write v s (by decide), fun b k h => ?_,
      fun _ => act_write_ignored v s⟩
    rw [act_write _ s (by simp only [goOffset]; omega), stage_textIn _ b h]
    rfl

end Sys2Proof.Machine
end

section
/-! SUPPORT. The encodings of spec/30_encoding.md and the acceptance of an offer: the whole state after acceptance, which
bits of a descriptor each opcode reads, the shape of every frame, and the obligations these settle. -/

namespace Sys2Proof.Machine

/-! ### The state after an accepted offer (R58 to R60, R86, R104) -/

section
variable (s : State)

theorem acceptInto_eq (c : Phase) : acceptInto c s = accepted c s := rfl

theorem acceptPoll_eq :
    acceptPoll s = { accepted .peStart s with
      lst := if s.lst.state = .idle then { s.lst with state := .awaitingLength } else s.lst } := by
  rcases acceptPoll_cases s with ⟨hidle, h⟩ | ⟨hpartial, h⟩
  · rw [h, if_pos hidle]
    rfl
  · rw [h, if_neg hpartial]
    rfl

theorem acceptRead_eq :
    acceptRead s = { accepted .rtPredrain s with
      textLen := 0
      rt := ReaderRegs.zero
      lst := if s.lst.state = .collectingPayload then ListenerRegs.zero else s.lst } := by
  have hlst : (setRt ReaderRegs.zero (setTextLen 0 (acceptInto .rtPredrain s))).lst = s.lst := rfl
  cases h : s.lst.state <;> simp only [acceptRead, hlst, h] <;> rfl

theorem reservedOp_idle (h : s.ctl = .idle) : reservedOp s = { accepted .idle s with code := .invalidOp } := by
  simp only [reservedOp, h]
  rfl

end

/-! `acceptCommand` by the opcode's range. -/

section
variable {op : BitVec 4} (s : State)

theorem acceptCommand_encoder (h : 1 ≤ op.toNat ∧ op.toNat ≤ 7) : acceptCommand op s = accepted .encTx s := by
  obtain ⟨hlow, hhigh⟩ := h
  unfold acceptCommand
  interval_cases op.toNat <;> exact acceptInto_eq s .encTx

theorem acceptCommand_poll (h : op.toNat = 8) : acceptCommand op s = acceptPoll s := by
  simp only [acceptCommand, h]

theorem acceptCommand_read (h : op.toNat = 9) : acceptCommand op s = acceptRead s := by
  simp only [acceptCommand, h]

theorem acceptCommand_codec (h : op.toNat = 10 ∨ op.toNat = 11) : acceptCommand op s = accepted .codec s := by
  rcases h with h | h <;> simp only [acceptCommand, h, acceptInto_eq]

theorem acceptCommand_reserved (h : op.toNat = 0 ∨ 12 ≤ op.toNat) :
    acceptCommand op s = { accepted .idle s with code := .invalidOp } := by
  have hlt := op.isLt
  unfold acceptCommand
  split
  case h_12 => rfl
  all_goals omega

/-- Every acceptance latches the staged descriptor and clears `TX_FAIL` and `TRUNC`. -/
theorem acceptCommand_latched (op : BitVec 4) :
    (acceptCommand op s).op = latchOf s.staging ∧ (acceptCommand op s).txFail = false ∧
      (acceptCommand op s).trunc = false := by
  unfold acceptCommand
  split
  case h_8 => rw [acceptPoll_eq]; exact ⟨rfl, rfl, rfl⟩
  case h_9 => rw [acceptRead_eq]; exact ⟨rfl, rfl, rfl⟩
  all_goals exact ⟨rfl, rfl, rfl⟩

end

/-- Settles O3: a busy block refuses the offer; an idle one accepts the command, and each range of opcodes has its
acceptance. -/
theorem offerIsLatchedOrRefused : Obligations.OfferIsLatchedOrRefused := by
  intro v s
  refine ⟨act_go_busy v, fun hidle => ⟨_, act_go_idle v hidle, ?_⟩⟩
  obtain ⟨hop, htxFail, htrunc⟩ := acceptCommand_latched s (latchOf s.staging).op
  rw [hop]
  exact ⟨rfl, acceptCommand_ovr _ s, htxFail, htrunc, acceptCommand_encoder s,
    fun h => (acceptCommand_poll s h).trans (acceptPoll_eq s),
    fun h => (acceptCommand_read s h).trans (acceptRead_eq s),
    acceptCommand_codec s, acceptCommand_reserved s⟩

/-- Settles O5: each of the five opcodes runs `reservedOp`. -/
theorem reservedOpcodesCompleteInvalid : Obligations.ReservedOpcodesCompleteInvalid := by
  intro s hidle
  have hcomplete : Host.Outcome.next (reservedOp s) =
      (.next { accepted .idle s with code := .invalidOp } : Host.Outcome State Fault Refusal) :=
    congrArg _ (reservedOp_idle s hidle)
  exact ⟨hcomplete, hcomplete, hcomplete, hcomplete, hcomplete⟩

/-! ### The frames that operations transmit (R61, R62) -/

/-- A number of body bytes that R61 allows in a frame: 1 to 255 and, as a byte, no sync value. -/
def validBodyLength (n : Nat) : Prop := 1 ≤ n ∧ n ≤ 255 ∧ n ≠ 0x5A ∧ n ≠ 0xA5

theorem stringLengthValid_iff (m : Nat) : stringLengthValid m = true ↔ validBodyLength (m + 3) := by
  simp only [stringLengthValid, validBodyLength, Bool.and_eq_true, decide_eq_true_eq]
  omega

theorem stringArgsValid_eq (m : Byte) : stringArgsValid m = stringLengthValid m.toNat := by
  have h87 : m.toNat ≠ 87 ↔ 3 + m.toNat ≠ 0x5A := by omega
  have h162 : m.toNat ≠ 162 ↔ 3 + m.toNat ≠ 0xA5 := by omega
  simp only [stringArgsValid, stringLengthValid, h87, h162]

/-- The frame of a body of an allowed length: the sync pair, the right count, which is no sync value, and the body. -/
theorem frameOf_wellFramed {body : List Byte} (h : validBodyLength body.length) :
    ∃ len, frameOf body = 0x5A :: 0xA5 :: len :: body ∧ len.toNat = body.length ∧ len ≠ 0x5A ∧ len ≠ 0xA5 := by
  obtain ⟨-, hmax, hsync0, hsync1⟩ := h
  have hlen : (BitVec.ofNat 8 body.length).toNat = body.length := by
    rw [BitVec.toNat_ofNat]
    omega
  refine ⟨BitVec.ofNat 8 body.length, rfl, hlen, fun heq => hsync0 ?_, fun heq => hsync1 ?_⟩ <;>
    rw [← hlen, heq] <;> rfl

/-- A well-formed instruction that encodes to a frame gives the frame of a body of an allowed length, under its own
opcode. -/
theorem encode_frame {p : Params} {i : Instr} {op : BitVec 4} {bytes : List Byte} (hwf : i.wellFormed = true)
    (h : encode p i = .frame op bytes) :
    op = i.opcode ∧ ∃ body, bytes = frameOf body ∧ validBodyLength body.length := by
  have frame_of_body {body : List Byte} (hcode : encode p i = .frame i.opcode (frameOf body))
      (hvalid : validBodyLength body.length) :
      op = i.opcode ∧ ∃ body, bytes = frameOf body ∧ validBodyLength body.length := by
    obtain ⟨hop, hbytes⟩ := Code.frame.inj (h.symm.trans hcode)
    exact ⟨hop, _, hbytes, hvalid⟩
  cases i with
  | frameWriteString addr data =>
    exact frame_of_body rfl (by rw [length_bodyWriteString]; exact (stringLengthValid_iff _).1 hwf)
  | frameWriteFloat | frameWriteInt16 | frameSetBuzzer | frameSwitchPage | frameAppendCurvePoint | frameClearCurve
  | frameReadTextRequest => exact frame_of_body rfl (by simp [validBodyLength])
  | _ => cases h

theorem latchInstr_opcode (l : Latch) : (latchInstr l).opcode = l.op :=
  decodeFields_opcode ..

/-- The frame of the operation in a latch is well-formed and keeps the operation's opcode. -/
theorem latchFrame_wellFormed {l : Latch} {i : Instr} (h : latchFrame l = some i) :
    i.wellFormed = true ∧ i.opcode = l.op := by
  have hop := latchInstr_opcode l
  unfold latchFrame at h
  cases hl : latchInstr l with
  | writeString m addr tlen =>
    rw [hl] at h hop
    obtain ⟨hvalid, hi⟩ := Option.ite_none_right_eq_some.1 h
    cases hi
    refine ⟨?_, hop⟩
    rw [Instr.wellFormed, length_stringData_latched, ← stringArgsValid_eq]
    exact hvalid
  | _ => rw [hl] at h hop; cases h <;> exact ⟨rfl, hop⟩

/-- Settles O42: the latch's frame is well-formed, and a well-formed instruction's frame has a body of an allowed length. -/
theorem everyFrameIsWellFramed : Obligations.EveryFrameIsWellFramed := by
  intro p l i op bytes hframe hcode
  obtain ⟨hwf, hopcode⟩ := latchFrame_wellFormed hframe
  obtain ⟨hop, body, hbytes, hvalid⟩ := encode_frame hwf hcode
  obtain ⟨len, hframed, hlen, hsync0, hsync1⟩ := frameOf_wellFramed hvalid
  obtain ⟨hmin, hmax, -, -⟩ := hvalid
  exact ⟨hwf, hop.trans hopcode, len, body, hbytes.trans hframed, hlen, hmin, hmax, hsync0, hsync1⟩

/-! ### The descriptor bits that an opcode reads (R54 to R57) -/

/-- Words that agree on the bits of a field have the same field. -/
theorem extractLsb'_eq_of_bits {n : Nat} {d e : BitVec n} (k w : Nat)
    (h : ∀ i, i < w → d.getLsbD (k + i) = e.getLsbD (k + i)) : d.extractLsb' k w = e.extractLsb' k w := by
  apply BitVec.eq_of_getLsbD_eq
  intro i hi
  simp only [BitVec.getLsbD_extractLsb', h i hi]

/-- The low bits of the field `arg`. -/
theorem extract_argLow (d : BitVec 96) {w : Nat} (h : w ≤ 32) :
    (d.extractLsb' 32 32).extractLsb' 0 w = d.extractLsb' 32 w := by
  apply BitVec.eq_of_getLsbD_eq
  intro i hi
  have hi32 : i < 32 := by omega
  simp [hi, hi32]

/-! The command of a descriptor by its opcode: the operands are the only bits it reads. -/

section
variable {d : BitVec 96}

theorem decodeDescriptor_writeFloat (h : d.extractLsb' 0 4 = 1) :
    decodeDescriptor d = .writeFloat (d.extractLsb' 16 16) (d.extractLsb' 32 32) := by
  rw [decodeDescriptor, h]; rfl

theorem decodeDescriptor_writeInt16 (h : d.extractLsb' 0 4 = 2) :
    decodeDescriptor d = .writeInt16 (d.extractLsb' 16 16) (d.extractLsb' 32 16) := by
  have harg : (d.extractLsb' 32 32).extractLsb' 0 16 = d.extractLsb' 32 16 := extract_argLow _ (by decide)
  rw [decodeDescriptor, h, ← harg]; rfl

theorem decodeDescriptor_writeString (h : d.extractLsb' 0 4 = 3) :
    decodeDescriptor d = .writeString (d.extractLsb' 8 8) (d.extractLsb' 16 16) (d.extractLsb' 80 8) := by
  rw [decodeDescriptor, h]; rfl

theorem decodeDescriptor_setBuzzer (h : d.extractLsb' 0 4 = 4) :
    decodeDescriptor d = .setBuzzer (d.getLsbD 32) := by
  have harg : (d.extractLsb' 32 32).getLsbD 0 = d.getLsbD 32 := by simp
  rw [decodeDescriptor, h, ← harg]; rfl

theorem decodeDescriptor_switchPage (h : d.extractLsb' 0 4 = 5) :
    decodeDescriptor d = .switchPage (d.extractLsb' 32 8) := by
  have harg : (d.extractLsb' 32 32).extractLsb' 0 8 = d.extractLsb' 32 8 := extract_argLow _ (by decide)
  rw [decodeDescriptor, h, ← harg]; rfl

theorem decodeDescriptor_appendCurvePoint (h : d.extractLsb' 0 4 = 6) :
    decodeDescriptor d = .appendCurvePoint (d.extractLsb' 32 8) := by
  have harg : (d.extractLsb' 32 32).extractLsb' 0 8 = d.extractLsb' 32 8 := extract_argLow _ (by decide)
  rw [decodeDescriptor, h, ← harg]; rfl

theorem decodeDescriptor_readText (h : d.extractLsb' 0 4 = 9) :
    decodeDescriptor d = .readText (d.extractLsb' 8 8) (d.extractLsb' 16 16) (d.extractLsb' 32 32) := by
  rw [decodeDescriptor, h]; rfl

theorem decodeDescriptor_mergeAddress (h : d.extractLsb' 0 4 = 10) :
    decodeDescriptor d = .mergeAddress (d.extractLsb' 64 8) (d.extractLsb' 72 8) := by
  rw [decodeDescriptor, h]; rfl

theorem decodeDescriptor_splitAddress (h : d.extractLsb' 0 4 = 11) :
    decodeDescriptor d = .splitAddress (d.extractLsb' 16 16) := by
  rw [decodeDescriptor, h]; rfl

/-- The opcodes without operands: `CLEAR_CURVE`, `POLL_EVENT` and the reserved ones. -/
theorem decodeDescriptor_noOperands
    (h : d.extractLsb' 0 4 = 7 ∨ d.extractLsb' 0 4 = 8 ∨ d.extractLsb' 0 4 = 0 ∨ 12 ≤ (d.extractLsb' 0 4).toNat) :
    decodeDescriptor d = decodeFields (d.extractLsb' 0 4) 0 0 0 0 0 0 := by
  rw [decodeDescriptor]
  generalize d.extractLsb' 0 4 = op at h ⊢
  rcases h with rfl | rfl | rfl | hreserved
  · rfl
  · rfl
  · rfl
  · have hcases : op.toNat = 12 ∨ op.toNat = 13 ∨ op.toNat = 14 ∨ op.toNat = 15 := by omega
    rcases hcases with hop | hop | hop | hop <;> simp only [decodeFields, hop]

end

/-- Descriptors that agree on every bit that is not reserved stand for the same command. -/
theorem decodeDescriptor_reservedBits {d e : BitVec 96}
    (h : ∀ k, k < 96 → ¬ (4 ≤ k ∧ k < 8) → ¬ (88 ≤ k) → d.getLsbD k = e.getLsbD k) :
    decodeDescriptor d = decodeDescriptor e := by
  have hfield (k w : Nat) (hkw : k + w ≤ 4 ∨ 8 ≤ k ∧ k + w ≤ 88) : d.extractLsb' k w = e.extractLsb' k w :=
    extractLsb'_eq_of_bits k w fun i hi => h (k + i) (by omega) (by omega) (by omega)
  simp (disch := decide) only [decodeDescriptor, hfield]

/-- The value bytes of a string come from the text's first `tlen` bytes alone. -/
theorem stringData_take (text : List Byte) (tlen m : Byte) :
    stringData (text.take tlen.toNat) tlen m = stringData text tlen m := by
  have htake : (text.take tlen.toNat).take (min tlen.toNat m.toNat) = text.take (min tlen.toNat m.toNat) := by
    rw [List.take_take, Nat.min_eq_left (Nat.min_le_left ..)]
  simp only [stringData, htake]

/-- Settles O45: a command's operands are the only bits its opcode reads, and a string's value bytes come from the text's first
`tlen` bytes. -/
theorem unusedBitsAreIgnored : Obligations.UnusedBitsAreIgnored := by
  refine ⟨fun d e => decodeDescriptor_reservedBits, fun d e hde =>
    ⟨?writeFloat, ?writeInt16, ?writeString, ?setBuzzer, ?oneByte, ?readText, ?mergeAddress, ?splitAddress, ?noOperands⟩,
    fun x y tlen m htext => ?text⟩
  case writeFloat =>
    intro hop haddr harg
    rw [decodeDescriptor_writeFloat hop, decodeDescriptor_writeFloat (hde ▸ hop), haddr, harg]
  case writeInt16 =>
    intro hop haddr harg
    rw [decodeDescriptor_writeInt16 hop, decodeDescriptor_writeInt16 (hde ▸ hop), haddr, harg]
  case writeString =>
    intro hop hlen8 haddr htlen
    rw [decodeDescriptor_writeString hop, decodeDescriptor_writeString (hde ▸ hop), hlen8, haddr, htlen]
  case setBuzzer =>
    intro hop harg
    rw [decodeDescriptor_setBuzzer hop, decodeDescriptor_setBuzzer (hde ▸ hop), harg]
  case oneByte =>
    rintro (hop | hop) harg
    · rw [decodeDescriptor_switchPage hop, decodeDescriptor_switchPage (hde ▸ hop), harg]
    · rw [decodeDescriptor_appendCurvePoint hop, decodeDescriptor_appendCurvePoint (hde ▸ hop), harg]
  case readText =>
    intro hop hlen8 haddr harg
    rw [decodeDescriptor_readText hop, decodeDescriptor_readText (hde ▸ hop), hlen8, haddr, harg]
  case mergeAddress =>
    intro hop hhi hlo
    rw [decodeDescriptor_mergeAddress hop, decodeDescriptor_mergeAddress (hde ▸ hop), hhi, hlo]
  case splitAddress =>
    intro hop haddr
    rw [decodeDescriptor_splitAddress hop, decodeDescriptor_splitAddress (hde ▸ hop), haddr]
  case noOperands =>
    intro hop
    rw [decodeDescriptor_noOperands hop, decodeDescriptor_noOperands (hde ▸ hop), hde]
  case text =>
    rw [← stringData_take x, htext, stringData_take]

end Sys2Proof.Machine
end

section
/-! SUPPORT. The encoder operations of spec/40_encoder.md: each operation in each of its phases as a whole next state, and a
run's way from `ENC_TX` to its completion, with the obligations these settle. -/

namespace Sys2Proof.Machine

/-! ### The results of the shared phases (R69 to R72) -/

section
variable (s : State)

theorem encStatus_eq : encStatus s = encoderCode s := by
  simp only [encStatus, encoderCode, Bool.and_eq_true]

theorem encSyncDrain_eq : encSyncDrain s = syncDrained s := by
  rw [encSyncDrain, encStatus_eq]
  rfl

theorem encAllDrain_eq (page : Byte) :
    encAllDrain page s = { s with rx := [], pageCache := page, code := encoderCode s, ctl := .idle } := by
  rw [encAllDrain, encStatus_eq]
  rfl

theorem encTransmit_eq (body : List Byte) (c : Phase) : encTransmit body c s = sent (frameOf body) c s := rfl

end

/-- A frame spelled out, once the number of its body bytes is known (R61). -/
theorem frameOf_of_length {body : List Byte} {n : Nat} (h : body.length = n) :
    frameOf body = [0x5A, 0xA5, BitVec.ofNat 8 n] ++ body := by
  rw [← h]
  rfl

/-! ### Operations whose step in `ENC_TX` does nothing but transmit -/

/-- The three phases of an operation that sends one frame and then drains the sync run (R68 to R70). -/
theorem encoderOp_runs {body frame : List Byte} (hframe : frameOf body = frame) (s : State) :
    let run : Host.Outcome State Fault Refusal := .next (encoderOp (encTransmit body .encSyncDrain) s)
    (s.ctl = .idle → run = .next (accepted .encTx s)) ∧
    (s.ctl = .encTx → run = .next (sent frame .encSyncDrain s)) ∧
    (s.ctl = .encSyncDrain → run = .next (syncDrained s)) := by
  refine ⟨fun hidle => ?_, fun hencTx => ?_, fun hdrain => ?_⟩
  · rw [encoderOp_idle _ hidle, acceptInto_eq]
  · rw [encoderOp_encTx _ hencTx, encTransmit_eq, hframe]
  · rw [encoderOp_encSyncDrain _ hdrain, encSyncDrain_eq]

/-- Settles O6: the frame is spelled out by its definition. -/
theorem writeFloatRuns : Obligations.WriteFloatRuns := fun _ _ _ => encoderOp_runs rfl _

/-- Settles O7: the frame is spelled out by its definition. -/
theorem writeInt16Runs : Obligations.WriteInt16Runs := fun _ _ _ => encoderOp_runs rfl _

/-- Settles O9: the frame is spelled out by its definition. -/
theorem setBuzzerRuns : Obligations.SetBuzzerRuns := fun _ _ => encoderOp_runs rfl _

/-- Settles O11: the body is the parameter's eleven bytes. -/
theorem appendCurvePointRuns : Obligations.AppendCurvePointRuns := fun ch s =>
  encoderOp_runs (frameOf_of_length (length_bodyAppendCurvePoint s.cfg ch)) s

/-- Settles O12: the body is the parameter's five bytes. -/
theorem clearCurveRuns : Obligations.ClearCurveRuns := fun s =>
  encoderOp_runs (frameOf_of_length (length_bodyClearCurve s.cfg)) s

/-! ### `SWITCH_PAGE` and `WRITE_STRING` -/

/-- Settles O10: `PAGE_PREFIX` and the page are seven body bytes, and the drain is the full one. -/
theorem switchPageRuns : Obligations.SwitchPageRuns := by
  intro page s
  refine ⟨fun hidle => exec_command_idle rfl hidle, fun hencTx => ?_, fun hdrain => ?_⟩
  · have hframe : frameOf (bodySwitchPage s.cfg page) = [0x5A, 0xA5, 0x07] ++ s.cfg.pagePrefix.toList ++ [page] := by
      rw [frameOf_of_length (length_bodySwitchPage s.cfg page), bodySwitchPage, ← List.append_assoc]
      rfl
    simp only [exec, execSwitchPage, hencTx]
    rw [encTransmit_eq, hframe]
  · simp only [exec, execSwitchPage, hdrain]
    rw [encAllDrain_eq]

theorem stringArgsValid_iff (m : Byte) :
    stringArgsValid m = true ↔ m.toNat ≤ 252 ∧ m.toNat ≠ 87 ∧ m.toNat ≠ 162 := by
  simp only [stringArgsValid, Bool.and_eq_true, decide_eq_true_eq, and_assoc]

/-- The frame of a latched string: its count is `maxLen` and the three bytes before the value bytes (R78). -/
theorem frameOf_bodyWriteString (addr : Addr) (text : Vector Byte 255) (tlen m : Byte) :
    frameOf (bodyWriteString addr (stringData text.toList tlen m)) =
      [0x5A, 0xA5, BitVec.ofNat 8 (3 + m.toNat), 0x82, addr.extractLsb' 8 8, addr.extractLsb' 0 8]
        ++ text.toList.take (min tlen.toNat m.toNat)
        ++ List.replicate (m.toNat - min tlen.toNat m.toNat) 0xFF := by
  have hlength : (bodyWriteString addr (stringData text.toList tlen m)).length = 3 + m.toNat := by
    rw [length_bodyWriteString, length_stringData_latched, Nat.add_comm]
  rw [frameOf_of_length hlength, List.append_assoc]
  rfl

theorem exec_writeString_encTx {s : State} (m : Byte) (addr : Addr) (tlen : Byte) (h : s.ctl = .encTx) :
    exec (.writeString m addr tlen) s = .next (writeStringTx m addr tlen s) :=
  congrArg Host.Outcome.next (encoderOp_encTx _ h)

/-- A `WRITE_STRING` with an invalid `maxLen` completes in `ENC_TX` (R77). -/
theorem exec_writeString_refused {s : State} {m : Byte} (addr : Addr) (tlen : Byte) (h : s.ctl = .encTx)
    (hm : stringArgsValid m = false) : exec (.writeString m addr tlen) s = .next (complete .invalidArg s) := by
  rw [exec_writeString_encTx m addr tlen h, writeStringTx, hm]
  rfl

/-- Settles O8: `stringArgsValid` decides between the refusal and the frame. -/
theorem writeStringRuns : Obligations.WriteStringRuns := by
  intro m addr tlen s
  refine ⟨fun hidle => exec_command_idle rfl hidle, fun hencTx hinvalid => ?_, fun hencTx hmax h87 h162 => ?_,
    fun hdrain => ?_⟩
  · refine exec_writeString_refused addr tlen hencTx (Bool.eq_false_iff.2 fun hvalid => ?_)
    obtain ⟨hmax, h87, h162⟩ := (stringArgsValid_iff m).1 hvalid
    omega
  · rw [exec_writeString_encTx m addr tlen hencTx, writeStringTx,
      if_pos ((stringArgsValid_iff m).2 ⟨hmax, h87, h162⟩), encTransmit_eq, frameOf_bodyWriteString]
    rfl
  · rw [← encSyncDrain_eq]
    exact congrArg Host.Outcome.next (encoderOp_encSyncDrain _ hdrain)

/-! ### The post-write drain (R70) -/

/-- The command in a latch is no frame. -/
theorem frameCommand_latchInstr (l : Latch) : frameCommand (latchInstr l) = none := by
  unfold latchInstr decodeFields
  split <;> rfl

/-- Every encoder command but `SWITCH_PAGE` has the same step in `ENC_SYNC_DRAIN`. -/
theorem exec_encSyncDrain {i : Instr} {s : State} (hencoder : encoderInstr i = true) (hcommand : frameCommand i = none)
    (hpage : ∀ page, i ≠ .switchPage page) (h : s.ctl = .encSyncDrain) : exec i s = .next (encSyncDrain s) := by
  cases i with
  | writeFloat | writeInt16 | writeString | setBuzzer | appendCurvePoint | clearCurve =>
    exact congrArg Host.Outcome.next (encoderOp_encSyncDrain _ h)
  | switchPage page => exact absurd rfl (hpage page)
  | frameWriteFloat | frameWriteInt16 | frameWriteString | frameSetBuzzer | frameSwitchPage | frameAppendCurvePoint
  | frameClearCurve => cases hcommand
  | _ => cases hencoder

/-- Settles O14: the removed run is what `takeWhile` takes off `RX`. -/
theorem postWriteDrainRemovesSyncRun : Obligations.PostWriteDrainRemovesSyncRun := by
  intro i s t hencoder hpage hdrain hlatched hexec
  have hcommand : frameCommand i = none := hlatched ▸ frameCommand_latchInstr s.op
  obtain rfl : encSyncDrain s = t :=
    Host.Outcome.next.inj ((exec_encSyncDrain hencoder hcommand hpage hdrain).symm.trans hexec)
  refine ⟨rfl, encStatus_eq s, rfl, s.rx.takeWhile isSync, List.takeWhile_append_dropWhile.symm, fun b hb => ?_,
    fun b rest hleft => ?_⟩
  · exact (isSync_iff b).1 (List.mem_takeWhile_imp hb)
  · have hb := List.head?_dropWhile_not isSync s.rx
    rw [← encSyncDrain_rx, hleft] at hb
    exact not_or.1 (mt (isSync_iff b).2 (Bool.eq_false_iff.1 hb))

/-! ### From `ENC_TX` to the completion (R73) -/

/-- The latch holds a `WRITE_STRING` that `ENC_TX` refuses (R77). -/
abbrev RefusedString (l : Latch) : Prop := l.op.toNat = 3 ∧ stringArgsValid l.len8 = false

/-- The drain phase that follows an encoder operation's transmission (R70, R71). -/
def drainPhase (op : BitVec 4) : Phase := if op.toNat = 5 then .encAllDrain else .encSyncDrain

/-- An encoder operation is in one of its phases, or complete. -/
def EncoderRun (s : State) : Prop := phaseFits s.ctl s.op.op = true ∧ 1 ≤ s.op.op.toNat ∧ s.op.op.toNat ≤ 7

/-- How many Controller steps an encoder operation still takes. -/
def encoderStepsLeft (s : State) : Nat :=
  match s.ctl with
  | .encTx => if RefusedString s.op then 1 else 2
  | .encSyncDrain | .encAllDrain => 1
  | .idle | .peStart | .peCollect | .rtPredrain | .rtTx | .rtWait | .rtCopy | .rtFinal | .codec => 0

theorem phaseFits_idle (op : BitVec 4) : phaseFits .idle op = true := rfl

theorem phaseFits_drainPhase {op : BitVec 4} (hop : 1 ≤ op.toNat ∧ op.toNat ≤ 7) :
    phaseFits (drainPhase op) op = true := by
  unfold drainPhase
  split
  next hpage => exact decide_eq_true hpage
  next hother => simp only [phaseFits, hop, hother, decide_true, ne_eq, not_false_eq_true, Bool.and_self]

/-- The phases of a run: the transmission, the drain of the operation in the latch, and `IDLE`. -/
theorem EncoderRun.phase {s : State} (h : EncoderRun s) :
    s.ctl = .encTx ∨ s.ctl = drainPhase s.op.op ∨ s.ctl = .idle := by
  obtain ⟨hfits, hlow, hhigh⟩ := h
  cases hctl : s.ctl with
  | idle => exact .inr (.inr rfl)
  | encTx => exact .inl rfl
  | encSyncDrain =>
    simp only [hctl, phaseFits, Bool.and_eq_true, decide_eq_true_eq] at hfits
    exact .inr (.inl (if_neg hfits.2).symm)
  | encAllDrain =>
    simp only [hctl, phaseFits, decide_eq_true_eq] at hfits
    exact .inr (.inl (if_pos hfits).symm)
  | _ =>
    simp only [hctl, phaseFits, Bool.or_eq_true, decide_eq_true_eq] at hfits
    omega

theorem encoderStepsLeft_encTx {s : State} (h : s.ctl = .encTx) :
    encoderStepsLeft s = if RefusedString s.op then 1 else 2 := by
  simp only [encoderStepsLeft, h]

theorem encoderStepsLeft_drainPhase {s : State} (h : s.ctl = drainPhase s.op.op) : encoderStepsLeft s = 1 := by
  unfold drainPhase at h
  split at h <;> simp only [encoderStepsLeft, h]

theorem encoderStepsLeft_idle {s : State} (h : s.ctl = .idle) : encoderStepsLeft s = 0 := by
  simp only [encoderStepsLeft, h]

/-- A run with no Controller step left is complete. -/
theorem EncoderRun.idle_of_stepsLeft {s : State} (h : EncoderRun s) (hleft : encoderStepsLeft s = 0) : s.ctl = .idle := by
  rcases h.phase with hctl | hctl | hctl
  · rw [encoderStepsLeft_encTx hctl] at hleft
    split at hleft <;> contradiction
  · rw [encoderStepsLeft_drainPhase hctl] at hleft
    contradiction
  · exact hctl

/-! ### The Controller's step in `ENC_TX` (R69, R77) -/

theorem encoderFrame_encTx {s : State} (tx : State → State) (h : s.ctl = .encTx) : encoderFrame tx s = tx s := by
  simp only [encoderFrame, h]

/-- In `ENC_TX` a frame of the encoder is sent and the drain follows; only `TRUNC` is written besides. -/
theorem exec_frame_encTx {i : Instr} {s : State} (hencoder : encoderInstr i = true) (hframe : frameCommand i ≠ none)
    (h : s.ctl = .encTx) :
    ∃ body trunc, exec i s = .next (encTransmit body (drainPhase i.opcode) (setTrunc trunc s)) := by
  cases i with
  | frameWriteFloat | frameWriteInt16 | frameSetBuzzer | frameSwitchPage | frameAppendCurvePoint | frameClearCurve =>
    exact ⟨_, s.trunc, congrArg Host.Outcome.next (encoderFrame_encTx _ h)⟩
  | frameWriteString => exact ⟨_, _, congrArg Host.Outcome.next (encoderFrame_encTx _ h)⟩
  | frameReadTextRequest => cases hencoder
  | _ => exact absurd rfl hframe

theorem latchInstr_eq_writeString {l : Latch} {m : Byte} {addr : Addr} {tlen : Byte}
    (h : latchInstr l = .writeString m addr tlen) : l.op.toNat = 3 ∧ l.len8 = m := by
  have hop : l.op.toNat = 3 := by
    rw [← latchInstr_opcode, h]
    rfl
  rw [latchInstr_writeString hop] at h
  exact ⟨hop, (Instr.writeString.inj h).1⟩

/-- The opcodes 1 to 7 are the encoder's (R56). -/
theorem encoderInstr_latchInstr {l : Latch} (h : 1 ≤ l.op.toNat ∧ l.op.toNat ≤ 7) :
    encoderInstr (latchInstr l) = true := by
  obtain ⟨hlow, hhigh⟩ := h
  unfold latchInstr decodeFields
  interval_cases l.op.toNat <;> rfl

theorem latchFrame_refused {l : Latch} (h : RefusedString l) : latchFrame l = none := by
  obtain ⟨hop, hinvalid⟩ := h
  simp only [latchFrame, latchInstr_writeString hop, hinvalid]
  rfl

/-- An encoder operation in the latch, unless it is a refused string, transmits a frame of the encoder. -/
theorem latchFrame_encoder {l : Latch} (hop : 1 ≤ l.op.toNat ∧ l.op.toNat ≤ 7) (hsent : ¬ RefusedString l) :
    ∃ i, latchFrame l = some i ∧ encoderInstr i = true ∧ frameCommand i ≠ none := by
  have hencoder := encoderInstr_latchInstr hop
  have hcommand := frameCommand_latchInstr l
  unfold latchFrame
  cases hl : latchInstr l with
  | writeString m addr tlen =>
    obtain ⟨hop3, rfl⟩ := latchInstr_eq_writeString hl
    have hvalid : stringArgsValid l.len8 = true := Bool.of_not_eq_false fun hinvalid => hsent ⟨hop3, hinvalid⟩
    exact ⟨_, if_pos hvalid, rfl, nofun⟩
  | writeFloat | writeInt16 | setBuzzer | switchPage | appendCurvePoint | clearCurve => exact ⟨_, rfl, rfl, nofun⟩
  | pollEvent | readText | mergeAddress | splitAddress | reserved0 | reservedC | reservedD | reservedE | reservedF =>
    rw [hl] at hencoder
    cases hencoder
  | _ =>
    rw [hl] at hcommand
    cases hcommand

theorem currentInstr_encTx {s : State} (h : s.ctl = .encTx) :
    currentInstr s = (latchFrame s.op).getD (latchInstr s.op) := by
  simp only [currentInstr, h]

theorem exec_currentInstr_refused {s : State} (h : s.ctl = .encTx) (hrefused : RefusedString s.op) :
    exec (currentInstr s) s = .next (complete .invalidArg s) := by
  have ⟨hop, hinvalid⟩ := hrefused
  rw [currentInstr_encTx h, latchFrame_refused hrefused, Option.getD_none, latchInstr_writeString hop]
  exact exec_writeString_refused _ _ h hinvalid

theorem exec_currentInstr_sent {s : State} (h : s.ctl = .encTx) (hop : 1 ≤ s.op.op.toNat ∧ s.op.op.toNat ≤ 7)
    (hsent : ¬ RefusedString s.op) :
    ∃ body trunc, exec (currentInstr s) s = .next (encTransmit body (drainPhase s.op.op) (setTrunc trunc s)) := by
  obtain ⟨i, hi, hencoder, hframe⟩ := latchFrame_encoder hop hsent
  rw [currentInstr_encTx h, hi, Option.getD_some, ← (latchFrame_wellFormed hi).2]
  exact exec_frame_encTx hencoder hframe h

/-! ### The Controller's step in a drain (R70, R71) -/

theorem currentInstr_drainPhase {s : State} (h : s.ctl = drainPhase s.op.op) : currentInstr s = latchInstr s.op := by
  unfold drainPhase at h
  split at h <;> simp only [currentInstr, h]

/-- The operation's drain completes it and leaves the wire and the latch. -/
theorem exec_drainPhase {s : State} (h : s.ctl = drainPhase s.op.op) (hop : 1 ≤ s.op.op.toNat ∧ s.op.op.toNat ≤ 7) :
    ∃ t, exec (currentInstr s) s = .next t ∧ t.ctl = .idle ∧ t.op = s.op ∧ t.wire = s.wire := by
  rw [currentInstr_drainPhase h]
  by_cases hpage : s.op.op.toNat = 5
  · rw [drainPhase, if_pos hpage] at h
    obtain ⟨-, -, hdrain⟩ := switchPageRuns (s.op.arg.extractLsb' 0 8) s
    rw [latchInstr_switchPage hpage]
    exact ⟨_, hdrain h, rfl, rfl, rfl⟩
  · rw [drainPhase, if_neg hpage] at h
    have hother (page : Byte) : latchInstr s.op ≠ .switchPage page := fun heq =>
      hpage (by rw [← latchInstr_opcode, heq]; rfl)
    exact ⟨_, exec_encSyncDrain (encoderInstr_latchInstr hop) (frameCommand_latchInstr _) hother h, rfl, rfl, rfl⟩

/-! ### The run -/

theorem act_controller_of_busy {s : State} (h : s.ctl ≠ .idle) : act .controller s = exec (currentInstr s) s := by
  cases hctl : s.ctl with
  | idle => exact absurd hctl h
  | _ => simp only [act, controllerStep, hctl]

theorem act_controller_of_idle {s : State} (h : s.ctl = .idle) : act .controller s = .next s := by
  simp only [act, controllerStep, h]

/-- A Link or Clock step leaves the phase, the latch and the wire. -/
theorem act_linkOrClock {e : Event} (s : State) (he : e.ofBlockOrLink = true) (hc : e ≠ .controller) :
    ∃ t, act e s = .next t ∧ t.ctl = s.ctl ∧ t.op = s.op ∧ t.wire = s.wire := by
  cases e with
  | controller => exact absurd rfl hc
  | clock => exact ⟨tick s, rfl, rfl, rfl, rfl⟩
  | host => cases he
  | link a =>
    cases a with
    | verdict v => exact ⟨setVerdict v s, rfl, rfl, rfl, rfl⟩
    | receive b =>
      refine ⟨receive b s, rfl, ?_⟩
      rcases receive_cases b s with ⟨-, h⟩ | ⟨-, h⟩ <;> rw [h] <;> exact ⟨rfl, rfl, rfl⟩

section
variable {s t : State}

theorem EncoderRun.of_op_eq (h : EncoderRun s) (hop : t.op = s.op) (hfits : phaseFits t.ctl s.op.op = true) :
    EncoderRun t := by
  obtain ⟨-, hrange⟩ := h
  rw [EncoderRun, hop]
  exact ⟨hfits, hrange⟩

/-- A Controller step of a run goes on to the drain or completes: one step less is left. -/
theorem EncoderRun.act_controller (h : EncoderRun s) :
    ∃ t, act .controller s = .next t ∧ EncoderRun t ∧ encoderStepsLeft t = encoderStepsLeft s - 1 ∧
      s.wire <+: t.wire := by
  have ⟨_, hop⟩ := h
  rcases h.phase with hctl | hctl | hctl
  · rw [act_controller_of_busy (by rw [hctl]; decide), encoderStepsLeft_encTx hctl]
    by_cases hrefused : RefusedString s.op
    · rw [if_pos hrefused]
      exact ⟨_, exec_currentInstr_refused hctl hrefused, h.of_op_eq rfl (phaseFits_idle _),
        encoderStepsLeft_idle rfl, List.prefix_rfl⟩
    · obtain ⟨body, trunc, hexec⟩ := exec_currentInstr_sent hctl hop hrefused
      rw [if_neg hrefused]
      exact ⟨_, hexec, h.of_op_eq rfl (phaseFits_drainPhase hop), encoderStepsLeft_drainPhase rfl,
        List.prefix_append _ _⟩
  · obtain ⟨t, hexec, htctl, htop, htwire⟩ := exec_drainPhase hctl hop
    have hbusy : s.ctl ≠ .idle := by
      rw [hctl, drainPhase]
      split <;> decide
    rw [act_controller_of_busy hbusy, encoderStepsLeft_drainPhase hctl, hexec]
    exact ⟨t, rfl, h.of_op_eq htop (htctl ▸ phaseFits_idle _), encoderStepsLeft_idle htctl, htwire ▸ List.prefix_rfl⟩
  · exact ⟨s, act_controller_of_idle hctl, h, by rw [encoderStepsLeft_idle hctl], List.prefix_rfl⟩

/-- Any Controller, Link or Clock step keeps the run; the Controller's alone count. -/
theorem EncoderRun.act {e : Event} (h : EncoderRun s) (he : e.ofBlockOrLink = true) :
    ∃ t, Machine.act e s = .next t ∧ EncoderRun t ∧
      encoderStepsLeft t = encoderStepsLeft s - controllerCount [e] ∧ s.wire <+: t.wire := by
  by_cases hc : e = .controller
  · subst hc
    exact h.act_controller
  · obtain ⟨t, hact, hctl, hop, hwire⟩ := act_linkOrClock s he hc
    have ⟨hfits, _⟩ := h
    refine ⟨t, hact, h.of_op_eq hop (hctl ▸ hfits), ?_, hwire ▸ List.prefix_rfl⟩
    simp only [encoderStepsLeft, hctl, hop, controllerCount, List.count_singleton, beq_iff_eq, hc]
    rfl

/-- Along any list of such steps the Controller's are counted down. -/
theorem EncoderRun.runEvents {es : List Event} (h : EncoderRun s) (hes : ∀ e ∈ es, e.ofBlockOrLink = true) :
    ∃ t, Machine.runEvents es s = .next t ∧ EncoderRun t ∧
      encoderStepsLeft t = encoderStepsLeft s - controllerCount es ∧ s.wire <+: t.wire := by
  induction es generalizing s with
  | nil => exact ⟨s, rfl, h, rfl, List.prefix_rfl⟩
  | cons e es ih =>
    obtain ⟨he, hes⟩ := List.forall_mem_cons.1 hes
    obtain ⟨u, hact, hu, hleftU, hwireU⟩ := h.act he
    obtain ⟨t, hrun, ht, hleftT, hwireT⟩ := ih hu hes
    have hcount : controllerCount (e :: es) = controllerCount [e] + controllerCount es :=
      List.count_append (l₁ := [e])
    refine ⟨t, ?_, ht, by omega, hwireU.trans hwireT⟩
    rw [Machine.runEvents, hact]
    exact hrun

end

/-- Settles O15: as many Controller steps as the run has left end it. -/
theorem encoderCompletesInTwoSteps : Obligations.EncoderCompletesInTwoSteps := by
  intro es s hctl hlow hhigh hes hcount
  have hstart : EncoderRun s := by
    rw [EncoderRun, hctl]
    simp only [phaseFits, hlow, hhigh, decide_true, Bool.and_self, and_self]
  obtain ⟨t, hrun, ht, hleft, hwire⟩ := hstart.runEvents hes
  rw [hcount, encoderStepsLeft_encTx hctl, Nat.sub_self] at hleft
  exact ⟨t, hrun, ht.idle_of_stepsLeft hleft, hwire⟩

end Sys2Proof.Machine
end

section
/-! SUPPORT. The listener of spec/41_listener.md: what `ReadLength()` leaves for each stream, the legacy poll's step in
`PE_START`, and the obligations that acceptance and that step settle. -/

namespace Sys2Proof.Machine

/-! ### Acceptance (R86, R104) -/

/-- Settles O18: each command's acceptance as a whole next state. -/
theorem pollAndReadAreAccepted : Obligations.PollAndReadAreAccepted := by
  intro s hidle
  refine ⟨?_, fun m addr T => ?_⟩
  · rw [exec_command_idle rfl hidle, acceptCommand_poll s rfl, acceptPoll_eq]
  · rw [exec_command_idle rfl hidle, acceptCommand_read s rfl, acceptRead_eq]
    rfl

/-! ### `ReadLength()` by the stream (R87) -/

section
variable {s : State} {b : Byte} {rest : List Byte}

theorem noEvent_eq (c : StatusCode) (s : State) : noEvent c s = withoutEvent c s := rfl

theorem startFrame_eq (n : Byte) (l : ListenerRegs) : startFrame n l = freshFrame n := rfl

theorem readLength_empty (h : s.rx = []) :
    readLength s = withoutEvent .noEvent { s with lst := { s.lst with state := .idle } } := by
  have hread : readLength s = noEvent .noEvent (setLstState .idle s) := by simp only [readLength, h]
  exact hread.trans (noEvent_eq _ _)

/-- A stray byte alone is consumed. -/
theorem readLength_stray (h : s.rx = b :: rest) (hstray : isStray b = true) :
    readLength s = withoutEvent .noEvent { s with rx := rest, lst := { s.lst with state := .idle } } := by
  have hread : readLength s = noEvent .noEvent (setLstState .idle (setRx rest s)) := by
    simp only [readLength, h, hstray, if_true]
  exact hread.trans (noEvent_eq _ _)

theorem readLength_length (h : s.rx = b :: rest) (hlength : isStray b = false) :
    readLength s = { s with rx := rest, lst := freshFrame b } := by
  simp only [readLength, h, hlength, Bool.false_eq_true, if_false, startFrame_eq]
  rfl

/-! ### The legacy `PE_START` (R92) -/

theorem exec_pollEvent_legacyStart (hstart : s.ctl = .peStart) (hlegacy : s.cfg.hardened = false) :
    exec .pollEvent s = .next (pollStartLegacy s) := by
  simp only [exec, execPollEvent, hstart, hlegacy, Bool.false_eq_true, if_false]

/-- Without a length the poll ends where `ReadLength()` left it. -/
theorem pollStartLegacy_of_idle (h : (readLength s).lst.state = .idle) : pollStartLegacy s = readLength s := by
  simp only [pollStartLegacy, h]

/-- With a length the Controller goes on to `PE_COLLECT`. -/
theorem pollStartLegacy_of_collecting (h : (readLength s).lst.state = .collectingPayload) :
    pollStartLegacy s = goto .peCollect (readLength s) := by
  simp only [pollStartLegacy, h]

end

/-- Settles O19: what `ReadLength()` leaves for the stream decides whether the poll ends or collects. -/
theorem legacyPollReadsLength : Obligations.LegacyPollReadsLength := by
  intro s hstart hlegacy
  rw [exec_pollEvent_legacyStart hstart hlegacy]
  refine ⟨fun hempty => ?_, fun b rest hrx hstray => ?_, fun b rest hrx h5A hA5 h00 => ?_⟩
  · have hread := readLength_empty hempty
    rw [pollStartLegacy_of_idle (by rw [hread]; rfl), hread]
  · have hread := readLength_stray hrx ((isStray_iff b).2 hstray)
    rw [pollStartLegacy_of_idle (by rw [hread]; rfl), hread]
  · have hlength : isStray b = false :=
      Bool.eq_false_iff.2 (mt (isStray_iff b).1 (not_or.2 ⟨h5A, not_or.2 ⟨hA5, h00⟩⟩))
    have hread := readLength_length hrx hlength
    rw [pollStartLegacy_of_collecting (by rw [hread]; rfl), hread]
    rfl

end Sys2Proof.Machine
end

section
/-! SUPPORT. The text reader of spec/42_text_reader.md: `READ_TEXT` in each of its phases, what a seek step makes of the three
bytes at the head of the stream, and the obligations on its drains, its request and its header search. -/

namespace Sys2Proof.Machine

/-! ### `READ_TEXT` runs the phase the Controller is in (R103) -/

section
variable {s : State} (m : Byte) (addr : Addr) (T : Word)

theorem exec_readText_predrain (h : s.ctl = .rtPredrain) : exec (.readText m addr T) s = .next (readPredrain s) := by
  simp only [exec, execReadText, h]

theorem exec_readText_tx (h : s.ctl = .rtTx) : exec (.readText m addr T) s = .next (readTx m addr s) := by
  simp only [exec, execReadText, h]

theorem exec_readText_wait (h : s.ctl = .rtWait) : exec (.readText m addr T) s = .next (readWait m T s) := by
  simp only [exec, execReadText, h]

theorem exec_readText_final (h : s.ctl = .rtFinal) : exec (.readText m addr T) s = .next (readFinal s) := by
  simp only [exec, execReadText, h]

end

/-! ### The request and the completion (R106, R110, R111) -/

/-- The request goes out and the deadline restarts; the verdict alone decides the next phase. -/
theorem readTx_eq (m : Byte) (addr : Addr) (s : State) :
    readTx m addr s = { sent (frameOf (bodyReadTextRequest addr m))
      (if s.cfg.hardened = true ∧ s.txVerdict.ok = false then .rtFinal else .rtWait) s with
      rt := { s.rt with elapsed := 0 } } := by
  obtain ⟨u, rfl, ⟨hskip, hfailed, hread⟩ | ⟨hwait, hread⟩⟩ := readTx_cases m addr s
  · rw [hread, if_pos ⟨hskip, hfailed⟩]
    rfl
  · rw [hread, if_neg hwait]
    rfl

theorem readStatus_eq (s : State) : readStatus s = readerCode s := by
  simp only [readStatus, readerCode, Bool.and_eq_true]

theorem readFinal_eq (s : State) : readFinal s = { s with rx := [], code := readerCode s, ctl := .idle } := by
  rw [readFinal, readStatus_eq]
  rfl

/-! ### The header search (R107, R108) -/

theorem deadlineElapsed_iff (T : Word) (s : State) : deadlineElapsed T s = true ↔ T.toNat ≤ s.rt.elapsed.toNat :=
  decide_eq_true_iff

section
variable {s : State} {b0 b1 b2 : Byte} {rest : List Byte}

/-- Before the deadline and before the header, three buffered bytes make the step a seek step. -/
theorem readWait_seek (m : Byte) {T : Word} (htime : s.rt.elapsed.toNat < T.toNat) (hhdr : s.rt.hdr = false)
    (hrx : 3 ≤ s.rx.length) : readWait m T s = seekHeader s := by
  have hdeadline : ¬ deadlineElapsed T s = true := mt (deadlineElapsed_iff T s).1 (Nat.not_le.2 htime)
  rw [readWait, if_neg hdeadline, hhdr, if_neg Bool.false_ne_true]
  exact if_pos hrx

theorem seekHeader_first (hrx : s.rx = b0 :: b1 :: b2 :: rest) (h0 : b0 ≠ 0x5A) :
    seekHeader s = { s with rx := b1 :: b2 :: rest } := by
  simp only [seekHeader, hrx]
  exact if_neg h0

/-- The second byte is consumed with the first, whatever it is. -/
theorem seekHeader_second (hrx : s.rx = 0x5A :: b1 :: b2 :: rest) (h1 : b1 ≠ 0xA5) :
    seekHeader s = { s with rx := b2 :: rest } := by
  simp only [seekHeader, hrx]
  exact (if_pos rfl).trans (if_neg h1)

theorem seekHeader_found (hrx : s.rx = 0x5A :: 0xA5 :: b2 :: rest) :
    seekHeader s = { s with rx := rest, rt := { s.rt with respLen := b2, hdr := true } } := by
  simp only [seekHeader, hrx]
  exact (if_pos rfl).trans (if_pos rfl)

end

/-! ### The obligations -/

/-- Settles O27: the drain is its definition, and the request's frame is spelled out by its body. -/
theorem readDrainsThenRequests : Obligations.ReadDrainsThenRequests := by
  intro m addr T s
  refine ⟨fun hpredrain => exec_readText_predrain m addr T hpredrain, fun htx => ?_⟩
  rw [exec_readText_tx m addr T htx, readTx_eq]
  rfl

/-- Settles O29: the step is a seek step, and the first byte, then the second, decides how much of the stream it takes. -/
theorem readSeeksHeader : Obligations.ReadSeeksHeader := by
  intro m addr T b0 b1 b2 rest s hwait htime hhdr hrx
  have hthree : 3 ≤ s.rx.length := by simp [hrx]
  rw [exec_readText_wait m addr T hwait, readWait_seek m htime hhdr hthree]
  congr 1
  by_cases h0 : b0 = 0x5A
  · subst h0
    rw [if_neg (not_not.2 rfl)]
    by_cases h1 : b1 = 0xA5
    · subst h1
      rw [if_neg (not_not.2 rfl)]
      exact seekHeader_found hrx
    · rw [if_pos h1]
      exact seekHeader_second hrx h1
  · rw [if_pos h0]
    exact seekHeader_first hrx h0

/-- Settles O31: the reader's code is R111's. -/
theorem readFinishes : Obligations.ReadFinishes := by
  intro m addr T s hfinal
  rw [exec_readText_final m addr T hfinal, readFinal_eq]

end Sys2Proof.Machine
end

section
/-! SUPPORT. The codec of spec/43_address_codec.md: an address put together from two bytes and taken apart again, the two
operations' result step, and the obligations on the codec's phases and laws. -/

namespace Sys2Proof.Machine

/-! ### An address and its two bytes (R118 to R120) -/

/-- R118's shift and or put the bytes side by side. -/
theorem shiftLeft_or_eq_append (hi lo : Byte) : (hi.setWidth 16 <<< 8) ||| lo.setWidth 16 = hi ++ lo := by
  rw [BitVec.append_def, BitVec.shiftLeftZeroExtend_eq, BitVec.setWidth'_eq]

/-- R120's first law. -/
theorem hi8_append_lo8 (a : Addr) : hi8 a ++ lo8 a = a :=
  (BitVec.extractLsb'_append_extractLsb'_eq_extractLsb' rfl).trans BitVec.extractLsb'_eq_self

/-- R120's second law, the high byte. -/
theorem hi8_append (h l : Byte) : hi8 (h ++ l) = h :=
  (extract_append_high h l 0 8).trans BitVec.extractLsb'_eq_self

/-- R120's second law, the low byte. -/
theorem lo8_append (h l : Byte) : lo8 (h ++ l) = l :=
  extract_append_low h l

/-! ### The result step -/

theorem setMerge_eq (hi lo : Byte) (s : State) : setMerge hi lo s = { s with mergeOut := hi ++ lo } := by
  rw [setMerge, shiftLeft_or_eq_append]

theorem codecOp_codec (write : State → State) {s : State} (h : s.ctl = .codec) :
    codecOp write s = complete .ok (write s) := by
  simp only [codecOp, h]

theorem exec_mergeAddress (hi lo : Byte) (s : State) :
    exec (.mergeAddress hi lo) s = .next (codecOp (setMerge hi lo) s) := rfl

theorem exec_splitAddress (a : Addr) (s : State) : exec (.splitAddress a) s = .next (codecOp (setSplit a) s) := rfl

theorem exec_mergeAddress_codec (hi lo : Byte) {s : State} (h : s.ctl = .codec) :
    exec (.mergeAddress hi lo) s = .next { s with mergeOut := hi ++ lo, code := .ok, ctl := .idle } := by
  rw [exec_mergeAddress, codecOp_codec _ h, setMerge_eq]
  rfl

theorem exec_splitAddress_codec (a : Addr) {s : State} (h : s.ctl = .codec) :
    exec (.splitAddress a) s = .next { s with splitHi := hi8 a, splitLo := lo8 a, code := .ok, ctl := .idle } := by
  rw [exec_splitAddress, codecOp_codec _ h]
  rfl

/-! ### What a successful step leaves in the result registers -/

section
variable {s t : State}

theorem mergeOut_of_exec_mergeAddress {hi lo : Byte} (h : s.ctl = .codec)
    (hexec : exec (.mergeAddress hi lo) s = .next t) : t.mergeOut = hi ++ lo := by
  cases (exec_mergeAddress_codec hi lo h).symm.trans hexec
  rfl

theorem split_of_exec_splitAddress {a : Addr} (h : s.ctl = .codec) (hexec : exec (.splitAddress a) s = .next t) :
    t.splitHi = hi8 a ∧ t.splitLo = lo8 a := by
  cases (exec_splitAddress_codec a h).symm.trans hexec
  exact ⟨rfl, rfl⟩

/-- In every phase: acceptance, completion and a refused offer alike. -/
theorem exec_mergeAddress_keeps_split {hi lo : Byte} (hexec : exec (.mergeAddress hi lo) s = .next t) :
    t.splitHi = s.splitHi ∧ t.splitLo = s.splitLo := by
  cases (exec_mergeAddress hi lo s).symm.trans hexec
  rcases codecOp_cases (setMerge hi lo) s with ⟨-, h⟩ | ⟨-, h⟩ | h <;> rw [h] <;> exact ⟨rfl, rfl⟩

/-- In every phase: acceptance, completion and a refused offer alike. -/
theorem exec_splitAddress_keeps_mergeOut {a : Addr} (hexec : exec (.splitAddress a) s = .next t) :
    t.mergeOut = s.mergeOut := by
  cases (exec_splitAddress a s).symm.trans hexec
  rcases codecOp_cases (setSplit a) s with ⟨-, h⟩ | ⟨-, h⟩ | h <;> rw [h] <;> rfl

end

/-! ### The obligations -/

/-- Settles O37: acceptance is that of every command, and the `CODEC` phase is the result step. -/
theorem codecOperationsRun : Obligations.CodecOperationsRun := by
  refine ⟨fun hi lo s => ⟨fun hidle => ?_, exec_mergeAddress_codec hi lo⟩,
    fun addr s => ⟨fun hidle => ?_, exec_splitAddress_codec addr⟩⟩
  · rw [exec_command_idle rfl hidle, acceptCommand_codec s (.inl rfl)]
  · rw [exec_command_idle rfl hidle, acceptCommand_codec s (.inr rfl)]

/-- Settles O38: the results are the bytes' laws read off the result steps; the other operation's result is kept in every
phase. -/
theorem codecRoundTrips : Obligations.CodecRoundTrips := by
  refine ⟨fun a s t hs hsplit u v hu hmerge => ?_, fun h l s t hs hmerge u v hu hsplit => ?_,
    fun _ _ _ _ => exec_mergeAddress_keeps_split, fun _ _ _ => exec_splitAddress_keeps_mergeOut⟩
  · obtain ⟨hhi, hlo⟩ := split_of_exec_splitAddress hs hsplit
    rw [mergeOut_of_exec_mergeAddress hu hmerge, hhi, hlo, hi8_append_lo8]
  · obtain ⟨hhi, hlo⟩ := split_of_exec_splitAddress hu hsplit
    rw [hhi, hlo, mergeOut_of_exec_mergeAddress hs hmerge, hi8_append, lo8_append]
    exact ⟨rfl, rfl⟩

end Sys2Proof.Machine
end

section
/-! SUPPORT. The clock of spec/60_exceptions.md: what a tick makes of each elapsed counter, where it runs and where it stands,
and the two obligations on one tick and on any number of them. -/

namespace Sys2Proof.Machine

/-! ### The saturating increment (R140) -/

theorem toNat_satInc (v : Word) : (satInc v).toNat = min (v.toNat + 1) 0xFFFFFFFF := by
  unfold satInc
  split
  case isTrue hroom =>
    have hone : (1 : Word).toNat = 1 := rfl
    rw [BitVec.toNat_add_of_lt (by omega)]
    omega
  case isFalse hfull =>
    have := v.isLt
    omega

theorem toNat_iterate_satInc (n : Nat) (v : Word) : (satInc^[n] v).toNat = min (v.toNat + n) 0xFFFFFFFF := by
  induction n generalizing v with
  | zero =>
    rw [Function.iterate_zero_apply]
    have := v.isLt
    omega
  | succ n ih =>
    rw [Function.iterate_succ_apply, ih, toNat_satInc]
    omega

/-! ### One tick (R139) -/

section
variable {s : State}

theorem tick_rt_of_counting (h : s.ctl = .rtWait ∨ s.ctl = .rtCopy) :
    (tick s).rt = { s.rt with elapsed := satInc s.rt.elapsed } := by
  rw [tick_rt, if_pos h]

theorem tick_rt_of_not_counting (h : ¬ (s.ctl = .rtWait ∨ s.ctl = .rtCopy)) : (tick s).rt = s.rt := by
  rw [tick_rt, if_neg h]

theorem tick_lst_of_counting (h : s.cfg.hardened = true ∧ s.lst.state = .collectingPayload) :
    (tick s).lst = { s.lst with elapsed := satInc s.lst.elapsed } := by
  rw [tick_lst, if_pos h]

theorem tick_lst_of_not_counting (h : ¬ (s.cfg.hardened = true ∧ s.lst.state = .collectingPayload)) :
    (tick s).lst = s.lst := by
  rw [tick_lst, if_neg h]

end

theorem tick_rt_eq_elapsed (s : State) : (tick s).rt = { s.rt with elapsed := (tick s).rt.elapsed } := by
  by_cases h : s.ctl = .rtWait ∨ s.ctl = .rtCopy
  · rw [tick_rt_of_counting h]
  · rw [tick_rt_of_not_counting h]

theorem tick_lst_eq_elapsed (s : State) : (tick s).lst = { s.lst with elapsed := (tick s).lst.elapsed } := by
  by_cases h : s.cfg.hardened = true ∧ s.lst.state = .collectingPayload
  · rw [tick_lst_of_counting h]
  · rw [tick_lst_of_not_counting h]

/-! ### Any number of ticks -/

theorem runEvents_replicate_clock (n : Nat) (s : State) :
    runEvents (List.replicate n .clock) s = .next (tick^[n] s) := by
  induction n generalizing s with
  | zero => rfl
  | succ n ih => exact ih (tick s)

/-- A tick leaves the phase, so the reader's counter goes on running. -/
theorem iterate_tick_rt_elapsed (n : Nat) {s : State} (h : s.ctl = .rtWait ∨ s.ctl = .rtCopy) :
    (tick^[n] s).rt.elapsed = satInc^[n] s.rt.elapsed := by
  induction n generalizing s with
  | zero => rfl
  | succ n ih =>
    have hnext : (tick s).ctl = .rtWait ∨ (tick s).ctl = .rtCopy := by rwa [tick_ctl]
    rw [Function.iterate_succ_apply, ih hnext, tick_rt_of_counting h, Function.iterate_succ_apply]

/-- A tick leaves the mode and the listener's state, so the listener's counter goes on running. -/
theorem iterate_tick_lst_elapsed (n : Nat) {s : State}
    (h : s.cfg.hardened = true ∧ s.lst.state = .collectingPayload) :
    (tick^[n] s).lst.elapsed = satInc^[n] s.lst.elapsed := by
  induction n generalizing s with
  | zero => rfl
  | succ n ih =>
    have hnext : (tick s).cfg.hardened = true ∧ (tick s).lst.state = .collectingPayload := by
      rwa [tick_cfg, tick_lst_of_counting h]
    rw [Function.iterate_succ_apply, ih hnext, tick_lst_of_counting h, Function.iterate_succ_apply]

/-! ### The obligations -/

/-- Settles O50: the next state is `tick s`, and each counter is incremented or left by its own condition. -/
theorem tickCountsElapsedTime : Obligations.TickCountsElapsedTime := by
  intro s
  refine ⟨tick s, rfl, rfl, tick_rt_eq_elapsed s, tick_lst_eq_elapsed s, fun hcounts => ?_, fun hwait hcopy => ?_,
    fun hhardened hcollects => ?_, fun hstands => ?_⟩
  · rw [tick_rt_of_counting hcounts, toNat_satInc]
  · rw [tick_rt_of_not_counting (not_or.2 ⟨hwait, hcopy⟩)]
  · rw [tick_lst_of_counting ⟨hhardened, hcollects⟩, toNat_satInc]
  · rw [tick_lst_of_not_counting (not_and_or.2 (hstands.imp_left ne_true_of_eq_false))]

/-- Settles O51: `n` ticks are `n` saturating increments of each counter that runs. -/
theorem ticksSaturate : Obligations.TicksSaturate := by
  intro n s
  refine ⟨tick^[n] s, runEvents_replicate_clock n s, fun hcounts => ?_, fun hhardened hcollects => ?_⟩
  · rw [iterate_tick_rt_elapsed n hcounts, toNat_iterate_satInc]
  · rw [iterate_tick_lst_elapsed n ⟨hhardened, hcollects⟩, toNat_iterate_satInc]

end Sys2Proof.Machine
end

section
/-! SUPPORT. The reset input of spec/70_reset_and_hazards.md R147: the step of the Host that asserts it, and that the block is
free after it; the fields of the state it leaves are the `resetInput` lemmas above. -/

namespace Sys2Proof.Machine

/-! ### The step that asserts the reset input -/

theorem act_reset (s : State) : act (.host .reset) s = .next (resetInput s) := rfl

/-- `BUSY` reads 0 in `IDLE` only (R17). -/
theorem busy_eq_false_iff {s : State} : busy s = false ↔ s.ctl = .idle :=
  decide_eq_false_iff_not.trans not_not

/-! ### The obligation -/

/-- Settles O1: the next state is `resetInput s`, and each register of R32 is read off by its own lemma. -/
theorem resetInputRestoresEveryRegister : Obligations.ResetInputRestoresEveryRegister := by
  intro s
  have hfree : busy (resetInput s) = false := busy_eq_false_iff.2 (resetInput_ctl s)
  exact ⟨resetInput s, act_reset s, resetInput_ctl s, hfree, resetInput_op s, resetInput_staging s, resetInput_ovr s,
    resetInput_code s, resetInput_evt s, resetInput_lst s, resetInput_textLen s, resetInput_textBuf s, resetInput_rt s,
    resetInput_txFail s, resetInput_trunc s, resetInput_mergeOut s, resetInput_splitHi s, resetInput_splitLo s,
    resetInput_pageCache s, resetInput_rx s, resetInput_wire s, resetInput_cfg s⟩

end Sys2Proof.Machine
end

section
/-! SUPPORT. Both encodings of spec/30_encoding.md read back: a descriptor gives its command, a frame's bytes the frame of the
operation that sends them, and a decoded frame its very bytes. -/

namespace Sys2Proof.Machine

/-! ### Operands put into wider fields and taken out again (R54, R57) -/

theorem extractLsb'_setWidth {n m : Nat} (x : BitVec n) (h : n ≤ m) : (x.setWidth m).extractLsb' 0 n = x := by
  apply BitVec.eq_of_getLsbD_eq
  intro k hk
  have hkm : k < m := by omega
  simp [hk, hkm]

/-- The four bytes of a word, the highest first, put together again. -/
theorem append_bytes_of_word (f : Word) :
    f.extractLsb' 24 8 ++ f.extractLsb' 16 8 ++ f.extractLsb' 8 8 ++ f.extractLsb' 0 8 = f := by
  have htwo : f.extractLsb' 24 8 ++ f.extractLsb' 16 8 = f.extractLsb' 16 16 :=
    BitVec.extractLsb'_append_extractLsb'_eq_extractLsb' rfl
  have hthree : f.extractLsb' 16 16 ++ f.extractLsb' 8 8 = f.extractLsb' 8 24 :=
    BitVec.extractLsb'_append_extractLsb'_eq_extractLsb' rfl
  rw [htwo, hthree]
  exact (BitVec.extractLsb'_append_extractLsb'_eq_extractLsb' rfl).trans BitVec.extractLsb'_eq_self

/-! ### A frame's head (R61) -/

section
variable {p : Params} {op : BitVec 4} {body : List Byte} {i : Instr}

/-- The body of a frame that R61's count fits is decoded as it stands. -/
theorem decodeFrame_frameOf (p : Params) (op : BitVec 4) (h : body.length ≤ 255) :
    decodeFrame p op (frameOf body) = decodeBody p op body := by
  have hcount : (BitVec.ofNat 8 body.length).toNat = body.length := by
    rw [BitVec.toNat_ofNat]
    omega
  simp [decodeFrame, frameOf, hcount]

/-- Bytes that decode are the frame of a body that decodes. -/
theorem exists_body_of_decodeFrame {bytes : List Byte} (h : decodeFrame p op bytes = .ok i) :
    ∃ body, bytes = frameOf body ∧ decodeBody p op body = .ok i := by
  unfold decodeFrame at h
  split at h
  case h_1 s0 s1 len body =>
    split at h
    · cases h
    · next hsync =>
      split at h
      · cases h
      · next hlen =>
        obtain ⟨h0, h1⟩ : s0 = sync0 ∧ s1 = sync1 := by simpa [not_or] using hsync
        have hcount : len = BitVec.ofNat 8 body.length := by
          rw [← not_not.1 hlen, BitVec.ofNat_toNat, BitVec.setWidth_eq]
        exact ⟨body, by rw [h0, h1, hcount]; rfl, h⟩
  · cases h

/-! ### A frame's body, decoded (R62) -/

theorem decodeBody_writeFloat (p : Params) (addr : Addr) (f : Word) :
    decodeBody p 0x1 (bodyWriteFloat addr f) = .ok (.frameWriteFloat addr f) := by
  simp [decodeBody, bodyWriteFloat, addrOf, hi8_append_lo8, append_bytes_of_word]

theorem decodeBody_writeInt16 (p : Params) (addr : Addr) (v : BitVec 16) :
    decodeBody p 0x2 (bodyWriteInt16 addr v) = .ok (.frameWriteInt16 addr v) := by
  have hvalue : v.extractLsb' 8 8 ++ v.extractLsb' 0 8 = v := hi8_append_lo8 v
  simp [decodeBody, bodyWriteInt16, addrOf, hi8_append_lo8, hvalue]

theorem decodeBody_writeString (p : Params) (addr : Addr) {data : List Byte} (h : stringLengthValid data.length = true) :
    decodeBody p 0x3 (bodyWriteString addr data) = .ok (.frameWriteString addr data) := by
  simp [decodeBody, bodyWriteString, addrOf, hi8_append_lo8, h]

theorem decodeBody_setBuzzer (p : Params) (on : Bool) :
    decodeBody p 0x4 (bodySetBuzzer p on) = .ok (.frameSetBuzzer on) := by
  cases on <;> simp [decodeBody, bodySetBuzzer]

theorem decodeBody_switchPage (p : Params) (page : Byte) :
    decodeBody p 0x5 (bodySwitchPage p page) = .ok (.frameSwitchPage page) := by
  have hlength : p.pagePrefix.toList.length = 6 := p.pagePrefix.length_toList
  match hprefix : p.pagePrefix.toList, hlength with
  | [_, _, _, _, _, _], _ => simp [decodeBody, bodySwitchPage, hprefix]

/-- The least channel with a body is the one meant when no other channel shares it. -/
theorem channelOf_bodyAppendCurvePoint {ch : Byte}
    (h : ∀ ch', bodyAppendCurvePoint p ch' = bodyAppendCurvePoint p ch → ch' = ch) :
    channelOf p (bodyAppendCurvePoint p ch) = some ch := by
  unfold channelOf
  cases hfind : List.find? _ _ with
  | none =>
    have hmem : ch ∈ (List.range 256).map (BitVec.ofNat 8) :=
      List.mem_map.2 ⟨ch.toNat, List.mem_range.2 ch.isLt, by simp⟩
    exact absurd (decide_eq_true rfl) (List.find?_eq_none.1 hfind ch hmem)
  | some ch' =>
    have hsame := List.find?_some hfind
    rw [h ch' (of_decide_eq_true hsame)]

theorem decodeBody_appendCurvePoint {ch : Byte}
    (h : ∀ ch', bodyAppendCurvePoint p ch' = bodyAppendCurvePoint p ch → ch' = ch) :
    decodeBody p 0x6 (bodyAppendCurvePoint p ch) = .ok (.frameAppendCurvePoint ch) := by
  simp [decodeBody, channelOf_bodyAppendCurvePoint h]

theorem decodeBody_clearCurve (p : Params) : decodeBody p 0x7 (bodyClearCurve p) = .ok .frameClearCurve := by
  simp [decodeBody]

theorem decodeBody_readTextRequest (p : Params) (addr : Addr) (m : Byte) :
    decodeBody p 0x9 (bodyReadTextRequest addr m) = .ok (.frameReadTextRequest addr m) := by
  simp [decodeBody, bodyReadTextRequest, addrOf, hi8_append_lo8]

/-- Settles O43: a descriptor's fields are read back one by one; a frame's head gives its body, and the body its operands. -/
theorem decodeOfEncode : Obligations.DecodeOfEncode := by
  intro p i hwf hcurve
  have hframe {op : BitVec 4} {body : List Byte} (hlength : body.length ≤ 255) (hbody : decodeBody p op body = .ok i) :
      decode p (.frame op (frameOf body)) = .ok i := (decodeFrame_frameOf p op hlength).trans hbody
  cases i with
  | writeFloat addr f | splitAddress addr | readText m addr f | writeString m addr tlen | mergeAddress hi lo =>
    exact congrArg Except.ok (decodeDescriptor_pack ..)
  | clearCurve | pollEvent | reserved0 | reservedC | reservedD | reservedE | reservedF =>
    exact congrArg Except.ok (decodeDescriptor_pack ..)
  | writeInt16 addr v =>
    refine congrArg Except.ok ((decodeDescriptor_pack ..).trans ?_)
    exact congrArg (Instr.writeInt16 addr) (extractLsb'_setWidth v (by decide))
  | switchPage page =>
    refine congrArg Except.ok ((decodeDescriptor_pack ..).trans ?_)
    exact congrArg Instr.switchPage (extractLsb'_setWidth page (by decide))
  | appendCurvePoint ch =>
    refine congrArg Except.ok ((decodeDescriptor_pack ..).trans ?_)
    exact congrArg Instr.appendCurvePoint (extractLsb'_setWidth ch (by decide))
  | setBuzzer on =>
    refine congrArg Except.ok ((decodeDescriptor_pack ..).trans ?_)
    cases on <;> rfl
  | frameWriteFloat addr f => exact hframe (by simp) (decodeBody_writeFloat p addr f)
  | frameWriteInt16 addr v => exact hframe (by simp) (decodeBody_writeInt16 p addr v)
  | frameWriteString addr data =>
    obtain ⟨-, hmax, -, -⟩ := (stringLengthValid_iff _).1 hwf
    exact hframe (by rwa [length_bodyWriteString]) (decodeBody_writeString p addr hwf)
  | frameSetBuzzer on => exact hframe (by simp) (decodeBody_setBuzzer p on)
  | frameSwitchPage page => exact hframe (by simp) (decodeBody_switchPage p page)
  | frameAppendCurvePoint ch => exact hframe (by simp) (decodeBody_appendCurvePoint (hcurve ch rfl))
  | frameClearCurve => exact hframe (by simp) (decodeBody_clearCurve p)
  | frameReadTextRequest addr m => exact hframe (by simp) (decodeBody_readTextRequest p addr m)

/-! ### A decoded body encodes to its frame -/

theorem bodyWriteFloat_bytes (ah al b3 b2 b1 b0 : Byte) :
    bodyWriteFloat (addrOf ah al) (b3 ++ b2 ++ b1 ++ b0) = [cmdWrite, ah, al, b1, b0, b3, b2] := by
  obtain ⟨h0, h1, h2, h3⟩ := extract_append_four b3 b2 b1 b0
  simp only [bodyWriteFloat, addrOf, hi8_append, lo8_append]
  rw [h0, h1, h2, h3]

theorem bodyWriteInt16_bytes (ah al vh vl : Byte) :
    bodyWriteInt16 (addrOf ah al) (vh ++ vl) = [cmdWrite, ah, al, vh, vl] := by
  have hhi : (vh ++ vl).extractLsb' 8 8 = vh := hi8_append vh vl
  have hlo : (vh ++ vl).extractLsb' 0 8 = vl := lo8_append vh vl
  simp only [bodyWriteInt16, addrOf, hi8_append, lo8_append, hhi, hlo]

theorem bodyWriteString_bytes (ah al : Byte) (data : List Byte) :
    bodyWriteString (addrOf ah al) data = cmdWrite :: ah :: al :: data := by
  simp only [bodyWriteString, addrOf, hi8_append, lo8_append, List.cons_append, List.nil_append]

theorem bodyReadTextRequest_bytes (ah al m : Byte) :
    bodyReadTextRequest (addrOf ah al) m = [cmdRead, ah, al, m] := by
  simp only [bodyReadTextRequest, addrOf, hi8_append, lo8_append]

theorem bodyAppendCurvePoint_of_channelOf {ch : Byte} (h : channelOf p body = some ch) :
    bodyAppendCurvePoint p ch = body := by
  have hsame := List.find?_some h
  exact of_decide_eq_true hsame

/-- The instruction that `decodeBody` finds for an operation is that operation's frame of that very body. -/
theorem encode_of_decodeBody (h : decodeBody p op body = .ok i) :
    encode p i = .frame op (frameOf body) ∧ i.wellFormed = true := by
  have same_frame {sent : List Byte} (hsent : sent = body) : Code.frame op (frameOf sent) = .frame op (frameOf body) :=
    congrArg (fun b => Code.frame op (frameOf b)) hsent
  unfold decodeBody at h
  split at h
  case h_1 hop =>
    obtain rfl : op = 0x1 := BitVec.eq_of_toNat_eq hop
    split at h <;> try cases h
    split at h <;> cases h
    next hc => exact ⟨same_frame (hc ▸ bodyWriteFloat_bytes ..), rfl⟩
  case h_2 hop =>
    obtain rfl : op = 0x2 := BitVec.eq_of_toNat_eq hop
    split at h <;> try cases h
    split at h <;> cases h
    next hc => exact ⟨same_frame (hc ▸ bodyWriteInt16_bytes ..), rfl⟩
  case h_3 hop =>
    obtain rfl : op = 0x3 := BitVec.eq_of_toNat_eq hop
    split at h <;> try cases h
    split at h <;> try cases h
    next hc =>
      split at h <;> cases h
      next hvalid => exact ⟨same_frame (hc ▸ bodyWriteString_bytes ..), hvalid⟩
  case h_4 hop =>
    obtain rfl : op = 0x4 := BitVec.eq_of_toNat_eq hop
    split at h
    · next hon => cases h; exact ⟨same_frame hon.symm, rfl⟩
    · split at h <;> cases h
      next hoff => exact ⟨same_frame hoff.symm, rfl⟩
  case h_5 hop =>
    obtain rfl : op = 0x5 := BitVec.eq_of_toNat_eq hop
    split at h <;> try cases h
    split at h <;> cases h
    next hprefix => exact ⟨same_frame (by rw [bodySwitchPage, ← hprefix]; rfl), rfl⟩
  case h_6 hop =>
    obtain rfl : op = 0x6 := BitVec.eq_of_toNat_eq hop
    split at h <;> try cases h
    split at h <;> cases h
    next hchannel => exact ⟨same_frame (bodyAppendCurvePoint_of_channelOf hchannel), rfl⟩
  case h_7 hop =>
    obtain rfl : op = 0x7 := BitVec.eq_of_toNat_eq hop
    split at h <;> try cases h
    split at h <;> cases h
    next hbody => exact ⟨same_frame hbody.symm, rfl⟩
  case h_8 hop =>
    obtain rfl : op = 0x9 := BitVec.eq_of_toNat_eq hop
    split at h <;> try cases h
    split at h <;> cases h
    next hc => exact ⟨same_frame (hc ▸ bodyReadTextRequest_bytes ..), rfl⟩
  case h_9 => cases h

end

/-- Settles O44: the bytes are the frame of a body, and the body is the one its instruction sends. -/
theorem encodeOfDecodedFrame : Obligations.EncodeOfDecodedFrame := by
  intro p op bytes i h
  obtain ⟨body, rfl, hbody⟩ := exists_body_of_decodeFrame h
  exact encode_of_decodeBody hbody

/-! ### Words and commands, decoded -/

/-- Settles O4: acceptance latches the staged fields, and the latch is read as the descriptor is. -/
theorem latchedCommandIsTheStagedOne : Obligations.LatchedCommandIsTheStagedOne := by
  rintro i s t hidle rfl hexec
  obtain rfl : acceptCommand (stagedInstr s.staging).opcode s = t :=
    Host.Outcome.next.inj ((exec_command_idle (frameCommand_stagedInstr _) hidle).symm.trans hexec)
  obtain ⟨hop, -, -⟩ := acceptCommand_latched s (stagedInstr s.staging).opcode
  rw [hop]
  exact ⟨latchInstr_latchOf s.staging, rfl⟩

/-- Settles O46: each word is decoded by evaluation; the three frames reach no parameter before their operation is found. -/
theorem wordsDecodeAsTheSpecSays : Obligations.WordsDecodeAsTheSpecSays :=
  ⟨rfl, rfl, rfl, rfl, rfl, rfl, rfl, rfl, rfl, rfl⟩

end Sys2Proof.Machine
end

section
/-! SUPPORT. What each family of instructions can do in one step, and what it leaves alone, with the obligations on the frames of
the encoder, the listener, the text reader and the codec. -/

namespace Sys2Proof.Machine

/-! ### The encoder (spec/40_encoder.md) -/

/-- What an encoder instruction can make of a state: its acceptance, its transmission, its refusal of the arguments, its drain, an
offer to a busy block, or nothing (a frame outside `ENC_TX`). -/
inductive EncoderMove (i : Instr) (s : State) : State → Prop where
  | accept (hctl : s.ctl = .idle) : EncoderMove i s (acceptInto .encTx s)
  | transmit (body : List Byte) (trunc : Bool) (hctl : s.ctl = .encTx) (htrunc : trunc = s.trunc ∨ i.opcode = 0x3) :
      EncoderMove i s (encTransmit body (drainPhase i.opcode) (setTrunc trunc s))
  | invalidArg (hctl : s.ctl = .encTx) : EncoderMove i s (complete .invalidArg s)
  | syncDrain (hctl : s.ctl = .encSyncDrain) : EncoderMove i s (encSyncDrain s)
  | allDrain (page : Byte) (hi : i = .switchPage page) (hctl : s.ctl = .encAllDrain) :
      EncoderMove i s (encAllDrain page s)
  | refuse : EncoderMove i s (refuseOffer s)
  | nothing : EncoderMove i s s

section
variable {i : Instr} {s : State}

theorem encoderMove_encoderOp (tx : State → State) (htx : s.ctl = .encTx → EncoderMove i s (tx s)) :
    EncoderMove i s (encoderOp tx s) := by
  rcases encoderOp_cases tx s with ⟨hctl, h⟩ | ⟨hctl, h⟩ | ⟨hctl, h⟩ | h <;> rw [h]
  · exact .accept hctl
  · exact htx hctl
  · exact .syncDrain hctl
  · exact .refuse

theorem encoderMove_encoderFrame (tx : State → State) (htx : s.ctl = .encTx → EncoderMove i s (tx s)) :
    EncoderMove i s (encoderFrame tx s) := by
  rcases encoderFrame_cases tx s with ⟨hctl, h⟩ | ⟨-, h⟩ <;> rw [h]
  · exact htx hctl
  · exact .nothing

/-- The step of `ENC_TX` that only transmits. -/
theorem encoderMove_encTransmit (body : List Byte) (hctl : s.ctl = .encTx) :
    EncoderMove i s (encTransmit body (drainPhase i.opcode) s) :=
  .transmit body s.trunc hctl (.inl rfl)

theorem encoderMove_writeStringTx {m : Byte} {addr : Addr} {tlen : Byte} (hctl : s.ctl = .encTx) :
    EncoderMove (.writeString m addr tlen) s (writeStringTx m addr tlen s) := by
  unfold writeStringTx
  split
  · exact .transmit _ _ hctl (.inr rfl)
  · exact .invalidArg hctl

/-- An encoder instruction makes one of its moves. -/
theorem exec_encoder (h : encoderInstr i = true) : ∃ t, exec i s = .next t ∧ EncoderMove i s t := by
  cases i with
  | writeFloat | writeInt16 | setBuzzer | appendCurvePoint | clearCurve =>
    exact ⟨_, rfl, encoderMove_encoderOp _ (encoderMove_encTransmit _)⟩
  | writeString => exact ⟨_, rfl, encoderMove_encoderOp _ encoderMove_writeStringTx⟩
  | switchPage page =>
    refine ⟨_, rfl, ?_⟩
    split
    next hctl => exact .accept hctl
    next hctl => exact encoderMove_encTransmit _ hctl
    next hctl => exact .allDrain page rfl hctl
    all_goals exact .refuse
  | frameWriteFloat | frameWriteInt16 | frameSetBuzzer | frameSwitchPage | frameAppendCurvePoint | frameClearCurve =>
    exact ⟨_, rfl, encoderMove_encoderFrame _ (encoderMove_encTransmit _)⟩
  | frameWriteString => exact ⟨_, rfl, encoderMove_encoderFrame _ fun hctl => .transmit _ _ hctl (.inr rfl)⟩
  | _ => cases h

end

/-- Settles O16: none of the encoder's moves writes a register of another unit. -/
theorem encoderLeavesOtherUnitsAlone : Obligations.EncoderLeavesOtherUnitsAlone := by
  intro i s hencoder
  obtain ⟨t, hexec, hmove⟩ := exec_encoder (s := s) hencoder
  refine ⟨t, hexec, ?_⟩
  cases hmove with
  | allDrain page hi =>
    exact ⟨rfl, rfl, rfl, rfl, rfl, rfl, rfl, rfl, rfl, rfl, rfl, rfl, rfl, fun hpage => absurd hi (hpage page)⟩
  | _ => exact ⟨rfl, rfl, rfl, rfl, rfl, rfl, rfl, rfl, rfl, rfl, rfl, rfl, rfl, fun _ => rfl⟩

/-! ### The listener (spec/41_listener.md) -/

/-- `t` differs from `s` at most in the phase, the code, the event and listener registers and in bytes taken at the head of
`RX`. -/
def PollWrites (s t : State) : Prop :=
  ∃ c code evt lst rx, t = { s with ctl := c, code := code, evt := evt, lst := lst, rx := rx } ∧ rx <:+ s.rx

section
variable {s t u : State}

theorem PollWrites.of_eq (h : t = { s with ctl := t.ctl, code := t.code, evt := t.evt, lst := t.lst, rx := t.rx })
    (hrx : t.rx <:+ s.rx) : PollWrites s t := ⟨t.ctl, t.code, t.evt, t.lst, t.rx, h, hrx⟩

theorem PollWrites.refl (s : State) : PollWrites s s := .of_eq rfl List.suffix_rfl

theorem PollWrites.trans (hst : PollWrites s t) (htu : PollWrites t u) : PollWrites s u := by
  obtain ⟨_, _, _, _, _, rfl, hrx⟩ := hst
  obtain ⟨_, _, _, _, _, rfl, hrx'⟩ := htu
  exact ⟨_, _, _, _, _, rfl, hrx'.trans hrx⟩

theorem pollWrites_setRx {bs : List Byte} (h : bs <:+ s.rx) : PollWrites s (setRx bs s) := .of_eq rfl h

theorem pollWrites_setLst (l : ListenerRegs) (s : State) : PollWrites s (setLst l s) := .of_eq rfl List.suffix_rfl

theorem pollWrites_goto (c : Phase) (s : State) : PollWrites s (goto c s) := .of_eq rfl List.suffix_rfl

theorem pollWrites_noEvent (c : StatusCode) (s : State) : PollWrites s (noEvent c s) := .of_eq rfl List.suffix_rfl

theorem pollWrites_publish (s : State) : PollWrites s (publish s) := .of_eq rfl List.suffix_rfl

theorem readLength_pollWrites (s : State) : PollWrites s (readLength s) := by
  rcases readLength_cases s with ⟨-, h⟩ | ⟨b, rest, hrx, -, h⟩ | ⟨b, rest, hrx, -, h⟩ <;> rw [h]
  · exact (pollWrites_setLst _ s).trans (pollWrites_noEvent _ _)
  · exact (pollWrites_setRx (hrx ▸ List.suffix_cons b rest)).trans
      ((pollWrites_setLst _ _).trans (pollWrites_noEvent _ _))
  · exact (pollWrites_setRx (hrx ▸ List.suffix_cons b rest)).trans (pollWrites_setLst _ _)

theorem collectBody_suffix (bs : List Byte) (l : ListenerRegs) : (collectBody bs l).1 <:+ bs := by
  induction bs generalizing l with
  | nil => exact List.suffix_rfl
  | cons c rest ih =>
    unfold collectBody
    split
    · exact (ih _).trans (List.suffix_cons c rest)
    · exact List.suffix_rfl

theorem pollCollect_pollWrites (s : State) : PollWrites s (pollCollect s) := by
  have htaken := (pollWrites_setRx (collectBody_suffix s.rx s.lst)).trans (pollWrites_setLst (collectBody s.rx s.lst).2 _)
  obtain ⟨t, rfl, ⟨-, h⟩ | ⟨-, -, h⟩ | ⟨-, -, h⟩⟩ := pollCollect_cases s <;> rw [h]
  · exact htaken.trans (pollWrites_publish _)
  · exact htaken.trans ((pollWrites_setLst _ _).trans (pollWrites_noEvent _ _))
  · exact htaken.trans (pollWrites_noEvent _ _)

theorem pollStartHardened_pollWrites (s : State) : PollWrites s (pollStartHardened s) := by
  unfold pollStartHardened
  split
  · dsimp only
    split
    · exact (readLength_pollWrites s).trans (pollCollect_pollWrites _)
    all_goals exact readLength_pollWrites s
  all_goals exact pollCollect_pollWrites s

theorem pollStartLegacy_pollWrites (s : State) : PollWrites s (pollStartLegacy s) := by
  unfold pollStartLegacy
  dsimp only
  split
  · exact (readLength_pollWrites s).trans (pollWrites_goto _ _)
  all_goals exact readLength_pollWrites s

theorem pollCollectLegacy_pollWrites (s : State) : PollWrites s (pollCollectLegacy s) := by
  rcases pollCollectLegacy_cases s with ⟨-, h⟩ | ⟨c, rest, hrx, -, h⟩ | ⟨c, rest, hrx, -, h⟩ <;> rw [h]
  · exact .refl s
  · exact (pollWrites_setRx (hrx ▸ List.suffix_cons c rest)).trans
      ((pollWrites_setLst _ _).trans (pollWrites_publish _))
  · exact (pollWrites_setRx (hrx ▸ List.suffix_cons c rest)).trans (pollWrites_setLst _ _)

theorem exec_pollEvent_hardenedStart (hctl : s.ctl = .peStart) (hmode : s.cfg.hardened = true) :
    exec .pollEvent s = .next (pollStartHardened s) := by
  simp only [exec, execPollEvent, hctl, hmode, if_true]

theorem exec_pollEvent_collect (hctl : s.ctl = .peCollect) : exec .pollEvent s = .next (pollCollectLegacy s) := by
  simp only [exec, execPollEvent, hctl]

/-- In the phase of another operation the poll is an offer to a busy block. -/
theorem exec_pollEvent_foreign (hidle : s.ctl ≠ .idle) (hstart : s.ctl ≠ .peStart) (hcollect : s.ctl ≠ .peCollect) :
    exec .pollEvent s = .next (refuseOffer s) := by
  cases hctl : s.ctl with
  | idle => exact absurd hctl hidle
  | peStart => exact absurd hctl hstart
  | peCollect => exact absurd hctl hcollect
  | _ => simp only [exec, execPollEvent, hctl]

/-- In its own phases the poll makes its own writes only. -/
theorem exec_pollEvent_pollWrites (h : s.ctl = .peStart ∨ s.ctl = .peCollect) :
    ∃ t, exec .pollEvent s = .next t ∧ PollWrites s t := by
  rcases h with hctl | hctl
  · cases hmode : s.cfg.hardened with
    | true => exact ⟨_, exec_pollEvent_hardenedStart hctl hmode, pollStartHardened_pollWrites s⟩
    | false => exact ⟨_, exec_pollEvent_legacyStart hctl hmode, pollStartLegacy_pollWrites s⟩
  · exact ⟨_, exec_pollEvent_collect hctl, pollCollectLegacy_pollWrites s⟩

/-- Settles O26: the poll is accepted, makes its own writes in its own phases, or is refused. -/
theorem pollLeavesOtherUnitsAlone : Obligations.PollLeavesOtherUnitsAlone := by
  intro s
  by_cases hpoll : s.ctl = .peStart ∨ s.ctl = .peCollect
  · obtain ⟨t, hexec, _, _, _, _, _, rfl, hrx⟩ := exec_pollEvent_pollWrites hpoll
    exact ⟨_, hexec, hrx, rfl, rfl, rfl, rfl, rfl, rfl, rfl, rfl, rfl, rfl, rfl, rfl, rfl, rfl, rfl,
      fun _ => ⟨rfl, rfl, rfl⟩, fun _ => rfl⟩
  · by_cases hidle : s.ctl = .idle
    · have hexec : exec .pollEvent s = .next (acceptPoll s) := exec_command_idle rfl hidle
      rw [acceptPoll_eq] at hexec
      exact ⟨_, hexec, List.suffix_rfl, rfl, rfl, rfl, rfl, rfl, rfl, rfl, rfl, rfl, rfl, rfl, rfl, rfl, rfl, rfl,
        fun hbusy => absurd hidle hbusy, fun h => absurd h hpoll⟩
    · obtain ⟨hstart, hcollect⟩ := not_or.1 hpoll
      exact ⟨_, exec_pollEvent_foreign hidle hstart hcollect, List.suffix_rfl, rfl, rfl, rfl, rfl, rfl, rfl, rfl, rfl,
        rfl, rfl, rfl, rfl, rfl, rfl, rfl, fun _ => ⟨rfl, rfl, rfl⟩, fun h => absurd h hpoll⟩

end

end Sys2Proof.Machine
end

section
/-! SUPPORT. The text reader's waiting and copying, each step as a whole next state; what `READ_TEXT` leaves alone; the codec's
frame. -/

namespace Sys2Proof.Machine

/-! ### One step of `RT_COPY` (R109) -/

section
variable {s : State} {m c : Byte} {addr : Addr} {T : Word} {rest : List Byte}

theorem exec_readText_copy (hctl : s.ctl = .rtCopy) : exec (.readText m addr T) s = .next (readCopy m T s) := by
  simp only [exec, execReadText, hctl]

theorem readCopy_byte (hrx : s.rx = c :: rest) : readCopy m T s = copyByte m c (setRx rest s) := by
  simp only [readCopy, hrx]

theorem disc_add_one_eq_three : ∀ d : BitVec 2, d + 1 = 3 ↔ d.toNat = 2 := by decide

/-- An echo byte is discarded; the third one ends the copy of an empty text. -/
theorem readCopy_echo (hrx : s.rx = c :: rest) (hdisc : s.rt.disc.toNat < 3) :
    readCopy m T s = { s with
      rx := rest, rt := { s.rt with disc := s.rt.disc + 1 }
      ctl := if s.rt.disc.toNat = 2 ∧ m = 0 then .rtFinal else s.ctl } := by
  have hecho := copyByte_echo (m := m) (c := c) (s := setRx rest s) hdisc
  rw [readCopy_byte hrx, hecho]
  simp only [setRx_rt, disc_add_one_eq_three]
  split <;> rfl

/-- The sentinel is consumed, not stored, and ends the copy. -/
theorem readCopy_sentinel (hrx : s.rx = 0xFF :: rest) (hdisc : s.rt.disc.toNat = 3) :
    readCopy m T s = { s with rx := rest, rt := { s.rt with reads := s.rt.reads + 1 }, ctl := .rtFinal } := by
  have hdata : ¬ (setRx rest s).rt.disc.toNat < 3 := by rw [setRx_rt]; omega
  rw [readCopy_byte hrx]
  exact copyByte_sentinel hdata

/-- A data byte is stored; the M-th one ends the copy. -/
theorem readCopy_data (hrx : s.rx = c :: rest) (hdisc : s.rt.disc.toNat = 3) (hc : c ≠ 0xFF) :
    readCopy m T s = { s with
      rx := rest, rt := { s.rt with reads := s.rt.reads + 1 }
      textBuf := s.textBuf.setIfInBounds s.textLen.toNat c, textLen := s.textLen + 1
      ctl := if s.rt.reads + 1 = m then .rtFinal else s.ctl } := by
  have hdata : ¬ (setRx rest s).rt.disc.toNat < 3 := by rw [setRx_rt]; omega
  rw [readCopy_byte hrx, copyByte_data hdata hc]
  by_cases hlast : s.rt.reads + 1 = m <;> simp only [setRx_rt, hlast, if_true, if_false] <;> rfl

/-- At its deadline the hardened reader ends with the stream empty. -/
theorem readCopy_timeOut (hrx : s.rx = []) (hmode : s.cfg.hardened = true) (htime : T.toNat ≤ s.rt.elapsed.toNat) :
    readCopy m T s = { s with rt := { s.rt with timedOut := true }, ctl := .rtFinal } := by
  have hends : readCopy m T s = readTimeOut s := by
    simp only [readCopy, hrx, hmode, (deadlineElapsed_iff T s).2 htime, Bool.and_self, if_true]
  exact hends

/-- With the stream empty the copy is held in the legacy mode, and before the deadline. -/
theorem readCopy_held (hrx : s.rx = []) (h : s.cfg.hardened = false ∨ s.rt.elapsed.toNat < T.toNat) :
    readCopy m T s = s := by
  have hgo : ¬ (s.cfg.hardened && deadlineElapsed T s) = true := by
    rw [Bool.and_eq_true, deadlineElapsed_iff]
    rintro ⟨hmode, htime⟩
    rcases h with hlegacy | hearly
    · rw [hlegacy] at hmode
      cases hmode
    · omega
  simp only [readCopy, hrx]
  exact if_neg hgo

theorem disc_lt_or_eq_three (d : BitVec 2) : d.toNat < 3 ∨ d.toNat = 3 := by
  have := d.isLt
  omega

/-- Settles O30: each clause is the step's closed form on its stream. -/
theorem readCopiesOneByte : Obligations.ReadCopiesOneByte := by
  intro m addr T s hcopy
  rw [exec_readText_copy hcopy, ← hcopy]
  exact ⟨fun c rest hrx hdisc => congrArg _ (readCopy_echo hrx hdisc),
    fun rest hrx hdisc => congrArg _ (readCopy_sentinel hrx hdisc),
    fun c rest hrx hdisc hc _ => congrArg _ (readCopy_data hrx hdisc hc),
    fun hrx hmode htime => congrArg _ (readCopy_timeOut hrx hmode htime),
    fun hrx h => congrArg _ (readCopy_held hrx h)⟩

end

/-! ### One step of `RT_WAIT` (R107) -/

section
variable {s : State} {m : Byte} {addr : Addr} {T : Word}

theorem readWait_timeOut (htime : T.toNat ≤ s.rt.elapsed.toNat) :
    readWait m T s = { s with rt := { s.rt with timedOut := true }, ctl := .rtFinal } := by
  rw [readWait, if_pos ((deadlineElapsed_iff T s).2 htime)]
  rfl

theorem deadlineElapsed_eq_false (htime : s.rt.elapsed.toNat < T.toNat) : deadlineElapsed T s = false :=
  decide_eq_false (Nat.not_le.2 htime)

/-- Before the deadline and with the header found, the copy begins with M + 2 bytes buffered. -/
theorem readWait_copy (htime : s.rt.elapsed.toNat < T.toNat) (hhdr : s.rt.hdr = true)
    (hrx : m.toNat + 2 ≤ s.rx.length) : readWait m T s = { s with ctl := .rtCopy } := by
  simp only [readWait, deadlineElapsed_eq_false htime, hhdr, rxCount_eq, hrx, Bool.false_eq_true, if_false, if_true]
  rfl

/-- Before the deadline the wait is held while the bytes of its next step are not buffered. -/
theorem readWait_held (htime : s.rt.elapsed.toNat < T.toNat)
    (h : s.rt.hdr = false ∧ s.rx.length < 3 ∨ s.rt.hdr = true ∧ s.rx.length < m.toNat + 2) : readWait m T s = s := by
  rcases h with ⟨hhdr, hrx⟩ | ⟨hhdr, hrx⟩ <;>
    simp only [readWait, deadlineElapsed_eq_false htime, hhdr, rxCount_eq, Nat.not_le.2 hrx, Bool.false_eq_true,
      if_false, if_true]

/-- Settles O28: each clause is the step's form on its conditions. -/
theorem readWaits : Obligations.ReadWaits := by
  intro m addr T s hwait
  rw [exec_readText_wait m addr T hwait]
  exact ⟨fun htime => congrArg _ (readWait_timeOut htime),
    fun htime hhdr hrx => congrArg _ (readWait_seek m htime hhdr hrx),
    fun htime hhdr hrx => congrArg _ (readWait_copy htime hhdr hrx),
    fun htime hhdr hrx => congrArg _ (readWait_held htime (.inl ⟨hhdr, hrx⟩)),
    fun htime hhdr hrx => congrArg _ (readWait_held htime (.inr ⟨hhdr, hrx⟩))⟩

/-! ### What `READ_TEXT` leaves alone -/

theorem seekHeader_writes (h : 3 ≤ s.rx.length) :
    ∃ rx hdr len, seekHeader s = { s with rx := rx, rt := { s.rt with hdr := hdr, respLen := len } } ∧ rx <:+ s.rx := by
  obtain ⟨b0, b1, b2, rest, hrx, ⟨-, hseek⟩ | ⟨-, -, hseek⟩ | ⟨-, -, hseek⟩⟩ := seekHeader_cases s h <;> rw [hseek, hrx]
  · exact ⟨b1 :: b2 :: rest, s.rt.hdr, s.rt.respLen, rfl, List.suffix_cons ..⟩
  · exact ⟨b2 :: rest, s.rt.hdr, s.rt.respLen, rfl, List.suffix_append [b0, b1] _⟩
  · exact ⟨rest, true, b2, rfl, List.suffix_append [b0, b1, b2] _⟩

/-- A step of `RT_WAIT` writes the reader's registers and the phase, and takes bytes at the head of the stream. -/
theorem readWait_writes (m : Byte) (T : Word) (s : State) :
    ∃ rx rt c, readWait m T s = { s with rx := rx, rt := rt, ctl := c } ∧ rx <:+ s.rx := by
  rcases readWait_cases m T s with ⟨-, h⟩ | ⟨-, -, -, h⟩ | ⟨-, -, hthree, h⟩ | ⟨-, h⟩
  · exact ⟨s.rx, _, _, h, List.suffix_rfl⟩
  · exact ⟨s.rx, s.rt, _, h, List.suffix_rfl⟩
  · obtain ⟨rx, hdr, len, hseek, hrx⟩ := seekHeader_writes hthree
    exact ⟨rx, _, s.ctl, h.trans hseek, hrx⟩
  · exact ⟨s.rx, s.rt, s.ctl, h, List.suffix_rfl⟩

/-- A step of `RT_COPY` writes the reader's registers, the phase and the text at `TEXT_LEN`, and takes at most one byte at the head
of the stream. -/
theorem readCopy_writes (m : Byte) (T : Word) (s : State) :
    ∃ rx rt buf len c, readCopy m T s = { s with rx := rx, rt := rt, textBuf := buf, textLen := len, ctl := c } ∧
      rx <:+ s.rx ∧ ∀ k : Nat, k ≠ s.textLen.toNat → buf[k]? = s.textBuf[k]? := by
  cases hrx : s.rx with
  | nil =>
    rw [← hrx]
    rcases readCopy_cases m T s with ⟨c, rest, hcons, -⟩ | ⟨-, -, -, h⟩ | ⟨-, h⟩
    · cases hrx.symm.trans hcons
    · exact ⟨s.rx, _, s.textBuf, s.textLen, _, h, List.suffix_rfl, fun _ _ => rfl⟩
    · exact ⟨s.rx, s.rt, s.textBuf, s.textLen, s.ctl, h, List.suffix_rfl, fun _ _ => rfl⟩
  | cons c rest =>
    have htaken : rest <:+ c :: rest := List.suffix_cons c rest
    rcases disc_lt_or_eq_three s.rt.disc with hecho | hdata
    · exact ⟨rest, _, s.textBuf, s.textLen, _, readCopy_echo hrx hecho, htaken, fun _ _ => rfl⟩
    · by_cases hc : c = 0xFF
      · subst hc
        exact ⟨rest, _, s.textBuf, s.textLen, _, readCopy_sentinel hrx hdata, htaken, fun _ _ => rfl⟩
      · exact ⟨rest, _, _, _, _, readCopy_data hrx hdata hc, htaken,
          fun k hk => Vector.getElem?_setIfInBounds_ne hk.symm⟩

theorem exec_readText_idle (hctl : s.ctl = .idle) :
    exec (.readText m addr T) s = .next (acceptRead s) := by
  simp only [exec, execReadText, hctl]

/-- In the phase of another operation the read is an offer to a busy block. -/
theorem exec_readText_foreign (hidle : s.ctl ≠ .idle) (hreader : readerPhase s.ctl = false) :
    exec (.readText m addr T) s = .next (refuseOffer s) := by
  cases hctl : s.ctl with
  | idle => exact absurd hctl hidle
  | rtPredrain | rtTx | rtWait | rtCopy | rtFinal => rw [hctl] at hreader; cases hreader
  | _ => simp only [exec, execReadText, hctl]

/-- Settles O36: phase by phase, from what its step writes. -/
theorem readerLeavesOtherUnitsAlone : Obligations.ReaderLeavesOtherUnitsAlone := by
  intro m addr T s
  cases hctl : s.ctl with
  | idle =>
    refine ⟨_, exec_readText_idle hctl, ?_⟩
    rw [acceptRead_eq]
    simp [readerPhase, accepted]
  | rtPredrain =>
    refine ⟨_, exec_readText_predrain m addr T hctl, ?_⟩
    simp [readPredrain]
  | rtTx =>
    refine ⟨_, exec_readText_tx m addr T hctl, ?_⟩
    rw [readTx_eq]
    simp [sent]
  | rtWait =>
    obtain ⟨rx, rt, c, hwait, hrx⟩ := readWait_writes m T s
    refine ⟨_, exec_readText_wait m addr T hctl, ?_⟩
    rw [hwait]
    simp [hrx]
  | rtCopy =>
    obtain ⟨rx, rt, buf, len, c, hcopy, hrx, hbuf⟩ := readCopy_writes m T s
    refine ⟨_, exec_readText_copy hctl, ?_⟩
    rw [hcopy]
    exact ⟨hrx, rfl, rfl, rfl, rfl, rfl, rfl, rfl, rfl, rfl, rfl, fun _ => ⟨rfl, rfl, rfl⟩,
      fun _ => ⟨rfl, rfl, rfl⟩, fun _ => rfl, fun hne => absurd rfl hne, hbuf, fun _ => rfl⟩
  | rtFinal =>
    refine ⟨_, exec_readText_final m addr T hctl, ?_⟩
    rw [readFinal_eq]
    simp
  | _ =>
    refine ⟨_, exec_readText_foreign (by rw [hctl]; decide) (by rw [hctl]; rfl), ?_⟩
    simp [readerPhase]

end

/-! ### The codec -/

theorem codecOp_foreign (write : State → State) {s : State} (hidle : s.ctl ≠ .idle) (hcodec : s.ctl ≠ .codec) :
    codecOp write s = refuseOffer s := by
  rcases codecOp_cases write s with ⟨hctl, -⟩ | ⟨hctl, -⟩ | h
  · exact absurd hctl hidle
  · exact absurd hctl hcodec
  · exact h

/-- A codec operation runs `codecOp` with a write of its result registers. -/
theorem exec_codec {i : Instr} (s : State) (hi : (∃ h l, i = .mergeAddress h l) ∨ (∃ a, i = .splitAddress a)) :
    ∃ write, exec i s = .next (codecOp write s) ∧
      ∃ m h l, write s = { s with mergeOut := m, splitHi := h, splitLo := l } := by
  rcases hi with ⟨h, l, rfl⟩ | ⟨a, rfl⟩
  · exact ⟨_, rfl, _, s.splitHi, s.splitLo, setMerge_eq h l s⟩
  · exact ⟨_, rfl, s.mergeOut, _, _, rfl⟩

/-- Settles O39: a codec operation is accepted, writes its result and completes, or is refused. -/
theorem codecLeavesOtherUnitsAlone : Obligations.CodecLeavesOtherUnitsAlone := by
  intro i s hi
  obtain ⟨write, hexec, m, h, l, hwrite⟩ := exec_codec s hi
  refine ⟨_, hexec, ?_⟩
  by_cases hidle : s.ctl = .idle
  · have haccept : codecOp write s = acceptInto .codec s := by simp only [codecOp, hidle]
    simp [haccept, hidle]
  · by_cases hcodec : s.ctl = .codec
    · simp [codecOp_codec write hcodec, hwrite]
    · simp [codecOp_foreign write hidle hcodec, hcodec]

end Sys2Proof.Machine
end

section
/-! SUPPORT. The transmit phases: the frames that are sent there, the frame and its operation as one step, and a whole run of an
encoder operation, with the obligations these settle. -/

namespace Sys2Proof.Machine

/-! ### The frames of the encoder in `ENC_TX` (R62, R69) -/

section
variable {s : State} {i : Instr} {op : BitVec 4} {bytes : List Byte}

/-- A frame of the encoder is sent in `ENC_TX`; the string's also writes `TRUNC` from the latch. -/
theorem exec_frame_sends (hencoder : encoderInstr i = true) (hcode : encode s.cfg i = .frame op bytes)
    (hctl : s.ctl = .encTx) :
    exec i s = .next { sent bytes (drainPhase op) s with
      trunc := if op = 0x3 then decide (s.op.len8.toNat < s.op.tlen.toNat) else s.trunc } := by
  have sends (tx : State → State) : Host.Outcome.next (encoderFrame tx s) =
      (.next (tx s) : Host.Outcome State Fault Refusal) := congrArg _ (encoderFrame_encTx tx hctl)
  cases i with
  | frameWriteFloat | frameWriteInt16 | frameWriteString | frameSetBuzzer | frameSwitchPage | frameAppendCurvePoint
  | frameClearCurve =>
    obtain ⟨rfl, rfl⟩ := Code.frame.inj hcode
    exact sends _
  | frameReadTextRequest => cases hencoder
  | _ => cases hcode

/-- The request is sent in `RT_TX`. -/
theorem exec_frameReadTextRequest_rtTx (addr : Addr) (m : Byte) (hctl : s.ctl = .rtTx) :
    exec (.frameReadTextRequest addr m) s = .next (readTx m addr s) := by
  simp only [exec, execFrameReadTextRequest, hctl]

theorem exec_frameReadTextRequest_foreign (addr : Addr) (m : Byte) (hctl : s.ctl ≠ .rtTx) :
    exec (.frameReadTextRequest addr m) s = .next s := by
  cases h : s.ctl with
  | rtTx => exact absurd h hctl
  | _ => simp only [exec, execFrameReadTextRequest, h]

end

/-! ### The operands that a frame takes from the latch (R62) -/

section
variable {l : Latch}

theorem latchFrame_writeString (hop : l.op.toNat = 3) (hvalid : stringArgsValid l.len8 = true) :
    latchFrame l = some (.frameWriteString l.addr (stringData l.text.toList l.tlen l.len8)) := by
  simp only [latchFrame, latchInstr_writeString hop, hvalid, if_true]

theorem latchFrame_readText (hop : l.op.toNat = 9) : latchFrame l = some (.frameReadTextRequest l.addr l.len8) := by
  simp only [latchFrame, latchInstr_readText hop]

/-- The frame that each opcode transmits, its operands the latch's fields. -/
theorem latchFrame_of_opcode (l : Latch) :
    (l.op = 0x1 → latchFrame l = some (.frameWriteFloat l.addr l.arg)) ∧
    (l.op = 0x2 → latchFrame l = some (.frameWriteInt16 l.addr (l.arg.extractLsb' 0 16))) ∧
    (l.op = 0x3 → l.len8.toNat ≤ 252 → l.len8.toNat ≠ 87 → l.len8.toNat ≠ 162 →
      latchFrame l = some (.frameWriteString l.addr (stringData l.text.toList l.tlen l.len8))) ∧
    (l.op = 0x4 → latchFrame l = some (.frameSetBuzzer (l.arg.getLsbD 0))) ∧
    (l.op = 0x5 → latchFrame l = some (.frameSwitchPage (l.arg.extractLsb' 0 8))) ∧
    (l.op = 0x6 → latchFrame l = some (.frameAppendCurvePoint (l.arg.extractLsb' 0 8))) ∧
    (l.op = 0x7 → latchFrame l = some .frameClearCurve) ∧
    (l.op = 0x9 → latchFrame l = some (.frameReadTextRequest l.addr l.len8)) := by
  have hnat {n : BitVec 4} (h : l.op = n) : l.op.toNat = n.toNat := congrArg _ h
  refine ⟨fun h => ?_, fun h => ?_, fun h hmax h87 h162 => ?_, fun h => ?_, fun h => ?_, fun h => ?_, fun h => ?_,
    fun h => latchFrame_readText (hnat h)⟩
  · simp only [latchFrame, latchInstr_writeFloat (hnat h)]
  · simp only [latchFrame, latchInstr_writeInt16 (hnat h)]
  · exact latchFrame_writeString (hnat h) ((stringArgsValid_iff _).2 ⟨hmax, h87, h162⟩)
  · simp only [latchFrame, latchInstr_setBuzzer (hnat h)]
  · simp only [latchFrame, latchInstr_switchPage (hnat h)]
  · simp only [latchFrame, latchInstr_appendCurvePoint (hnat h)]
  · simp only [latchFrame, latchInstr_clearCurve (hnat h)]

end

/-- Settles O40: each frame's bytes are its encoding, spelled out, and its operands the latch's. -/
theorem framesAreSentByteForByte : Obligations.FramesAreSentByteForByte := by
  refine ⟨fun a f s h => ?_, fun a v s h => ?_, fun a data s h => ?_, fun on s h => ?_, fun page s h => ?_,
    fun ch s h => ?_, fun s h => ?_, fun a m s h => ?_, latchFrame_of_opcode⟩
  · have hcode : encode s.cfg (.frameWriteFloat a f) = .frame 0x1 (frameOf (bodyWriteFloat a f)) := rfl
    exact exec_frame_sends rfl hcode h
  · have hcode : encode s.cfg (.frameWriteInt16 a v) = .frame 0x2 (frameOf (bodyWriteInt16 a v)) := rfl
    exact exec_frame_sends rfl hcode h
  · have hlength : (bodyWriteString a data).length = 3 + data.length := by rw [length_bodyWriteString, Nat.add_comm]
    have hcode : encode s.cfg (.frameWriteString a data) =
        .frame 0x3 ([0x5A, 0xA5, BitVec.ofNat 8 (3 + data.length)] ++ bodyWriteString a data) :=
      congrArg (Code.frame 0x3) (frameOf_of_length hlength)
    exact exec_frame_sends rfl hcode h
  · have hcode : encode s.cfg (.frameSetBuzzer on) = .frame 0x4 (frameOf (bodySetBuzzer s.cfg on)) := rfl
    exact exec_frame_sends rfl hcode h
  · have hcode : encode s.cfg (.frameSwitchPage page) =
        .frame 0x5 ([0x5A, 0xA5, 0x07] ++ s.cfg.pagePrefix.toList ++ [page]) :=
      congrArg (Code.frame 0x5) ((frameOf_of_length (length_bodySwitchPage s.cfg page)).trans
        (List.append_assoc [0x5A, 0xA5, 0x07] s.cfg.pagePrefix.toList [page]).symm)
    exact exec_frame_sends rfl hcode h
  · have hcode : encode s.cfg (.frameAppendCurvePoint ch) = .frame 0x6 ([0x5A, 0xA5, 0x0B] ++ bodyAppendCurvePoint s.cfg ch) :=
      congrArg (Code.frame 0x6) (frameOf_of_length (length_bodyAppendCurvePoint s.cfg ch))
    exact exec_frame_sends rfl hcode h
  · have hcode : encode s.cfg .frameClearCurve = .frame 0x7 ([0x5A, 0xA5, 0x05] ++ bodyClearCurve s.cfg) :=
      congrArg (Code.frame 0x7) (frameOf_of_length (length_bodyClearCurve s.cfg))
    exact exec_frame_sends rfl hcode h
  · rw [exec_frameReadTextRequest_rtTx a m h, readTx_eq]
    rfl

/-- Settles O13: the frame's last four bytes are the pattern's, the low half first. -/
theorem floatFrameRoundTrips : Obligations.FloatFrameRoundTrips := by
  intro addr f s t hctl hok hexec
  obtain ⟨-, hsends, -⟩ := writeFloatRuns addr f s
  obtain rfl := Host.Outcome.next.inj ((hsends hctl).symm.trans hexec)
  refine ⟨0x5A, 0xA5, 0x07, 0x82, _, _, _, _, _, _, ?_, hi8_append_lo8 addr, append_bytes_of_word f⟩
  simp only [sent, hok, if_true]
  rfl

/-! ### The frame and its operation (R69, R106) -/

section
variable {s : State} {i : Instr}

/-- In `ENC_TX` an encoder operation and the frame it transmits make the same step. -/
theorem exec_latchFrame_encTx (hctl : s.ctl = .encTx) (hop : s.op.op.toNat ≠ 9) (h : latchFrame s.op = some i) :
    exec i s = exec (latchInstr s.op) s := by
  have same (tx : State → State) : Host.Outcome.next (encoderFrame tx s) =
      (.next (encoderOp tx s) : Host.Outcome State Fault Refusal) := by
    rw [encoderFrame_encTx tx hctl, encoderOp_encTx tx hctl]
  cases hl : latchInstr s.op with
  | writeFloat | writeInt16 | setBuzzer | appendCurvePoint | clearCurve =>
    simp only [latchFrame, hl, Option.some.injEq] at h
    subst h
    exact same _
  | switchPage page =>
    simp only [latchFrame, hl, Option.some.injEq] at h
    subst h
    simp only [exec, execSwitchPage, execFrameSwitchPage, hctl, encoderFrame]
  | writeString m addr tlen =>
    obtain ⟨hop3, rfl⟩ := latchInstr_eq_writeString hl
    simp only [latchFrame, hl, Option.ite_none_right_eq_some, Option.some.injEq] at h
    obtain ⟨hvalid, rfl⟩ := h
    obtain ⟨-, -, rfl⟩ := Instr.writeString.inj ((latchInstr_writeString hop3).symm.trans hl)
    rw [exec_writeString_encTx _ _ _ hctl, writeStringTx, if_pos hvalid]
    exact congrArg Host.Outcome.next (encoderFrame_encTx _ hctl)
  | readText m addr T => exact absurd (by rw [← latchInstr_opcode, hl]; rfl) hop
  | _ =>
    simp only [latchFrame, hl] at h
    cases h

theorem op_of_encTx (hctl : s.ctl = .encTx) (hfits : phaseFits s.ctl s.op.op = true) :
    1 ≤ s.op.op.toNat ∧ s.op.op.toNat ≤ 7 := by
  simpa only [hctl, phaseFits, Bool.and_eq_true, decide_eq_true_eq] using hfits

theorem op_of_readerPhase (hreader : readerPhase s.ctl = true) (hfits : phaseFits s.ctl s.op.op = true) :
    s.op.op.toNat = 9 := by
  cases hctl : s.ctl with
  | rtPredrain | rtTx | rtWait | rtCopy | rtFinal => simpa only [hctl, phaseFits, decide_eq_true_eq] using hfits
  | _ => rw [hctl] at hreader; cases hreader

theorem currentInstr_rtTx (hctl : s.ctl = .rtTx) (hop : s.op.op.toNat = 9) :
    currentInstr s = .frameReadTextRequest s.op.addr s.op.len8 := by
  simp only [currentInstr, hctl, latchFrame_readText hop, Option.getD_some]

/-- Settles O41: in `ENC_TX` frame by frame, in `RT_TX` by the request's own step. -/
theorem transmitPhaseRunsTheOperation : Obligations.TransmitPhaseRunsTheOperation := by
  rintro s (hctl | hctl) hfits
  · obtain ⟨-, hmax⟩ := op_of_encTx hctl hfits
    rw [currentInstr_encTx hctl]
    cases hframe : latchFrame s.op with
    | none => rfl
    | some i => exact exec_latchFrame_encTx hctl (by omega) hframe
  · have hop := op_of_readerPhase (by rw [hctl]; rfl) hfits
    rw [currentInstr_rtTx hctl hop, exec_frameReadTextRequest_rtTx _ _ hctl, latchInstr_readText hop,
      exec_readText_tx _ _ _ hctl]

theorem currentInstr_of_not_transmitting (hencTx : s.ctl ≠ .encTx) (hrtTx : s.ctl ≠ .rtTx) :
    currentInstr s = latchInstr s.op := by
  cases hctl : s.ctl with
  | encTx => exact absurd hctl hencTx
  | rtTx => exact absurd hctl hrtTx
  | _ => simp only [currentInstr, hctl]

/-- In a phase that the latched operation uses, the Controller's step is a step of that operation. -/
theorem exec_currentInstr (hfits : phaseFits s.ctl s.op.op = true) :
    exec (currentInstr s) s = exec (latchInstr s.op) s := by
  by_cases htransmit : s.ctl = .encTx ∨ s.ctl = .rtTx
  · exact transmitPhaseRunsTheOperation s htransmit hfits
  · obtain ⟨hencTx, hrtTx⟩ := not_or.1 htransmit
    rw [currentInstr_of_not_transmitting hencTx hrtTx]

end

/-! ### A whole run of an encoder operation (R58, R69 to R72) -/

theorem runEvents_cons {e : Event} {es : List Event} {s t : State} (h : act e s = .next t) :
    runEvents (e :: es) s = runEvents es t := by
  simp only [runEvents, h]

section
variable {s : State} {frame : Instr} {op : BitVec 4} {bytes : List Byte}

theorem opcode_of_encoderInstr {i : Instr} (h : encoderInstr i = true) : 1 ≤ i.opcode.toNat ∧ i.opcode.toNat ≤ 7 := by
  cases i with
  | pollEvent | readText | mergeAddress | splitAddress | reserved0 | reservedC | reservedD | reservedE | reservedF
  | frameReadTextRequest => cases h
  | _ => simp [Instr.opcode]

/-- The drain of the operation in the latch: all of `RX` and the page cache for `SWITCH_PAGE`, else the sync run. -/
theorem exec_drainPhase_eq (h : s.ctl = drainPhase s.op.op) (hop : 1 ≤ s.op.op.toNat ∧ s.op.op.toNat ≤ 7) :
    exec (currentInstr s) s = .next
      (if s.op.op = 0x5 then encAllDrain (s.op.arg.extractLsb' 0 8) s else encSyncDrain s) := by
  rw [currentInstr_drainPhase h]
  by_cases hpage : s.op.op = 0x5
  · have hpage' : s.op.op.toNat = 5 := congrArg BitVec.toNat hpage
    rw [drainPhase, if_pos hpage'] at h
    rw [latchInstr_switchPage hpage', if_pos hpage]
    simp only [exec, execSwitchPage, h]
  · have hpage' : s.op.op.toNat ≠ 5 := fun heq => hpage (BitVec.eq_of_toNat_eq heq)
    rw [drainPhase, if_neg hpage'] at h
    have hother (page : Byte) : latchInstr s.op ≠ .switchPage page := fun heq =>
      hpage (by rw [← latchInstr_opcode, heq]; rfl)
    rw [if_neg hpage]
    exact exec_encSyncDrain (encoderInstr_latchInstr hop) (frameCommand_latchInstr _) hother h

/-- The state after the Controller's step in `ENC_TX` of an operation that transmits `bytes`. -/
def frameSent (bytes : List Byte) (s : State) : State :=
  { sent bytes (drainPhase s.op.op) s with
    trunc := if s.op.op = 0x3 then decide (s.op.len8.toNat < s.op.tlen.toNat) else s.trunc }

theorem act_controller_encTx (hctl : s.ctl = .encTx) (hframe : latchFrame s.op = some frame)
    (hencoder : encoderInstr frame = true) (hcode : encode s.cfg frame = .frame op bytes) :
    act .controller s = .next (frameSent bytes s) := by
  obtain ⟨hwf, hopcode⟩ := latchFrame_wellFormed hframe
  obtain ⟨hop, -⟩ := encode_frame hwf hcode
  rw [act_controller_of_busy (by rw [hctl]; decide), currentInstr_encTx hctl, hframe, Option.getD_some,
    exec_frame_sends hencoder hcode hctl, hop, hopcode]
  rfl

/-- The code of an operation whose write succeeded. -/
theorem encStatus_frameSent (hok : s.txVerdict.ok = true) (htrunc : s.trunc = false) :
    encStatus (frameSent bytes s) =
      if s.cfg.hardened = true ∧ s.op.op = 0x3 ∧ s.op.len8.toNat < s.op.tlen.toNat then .truncated else .ok := by
  have hcfg : (frameSent bytes s).cfg = s.cfg := rfl
  have htxFail : (frameSent bytes s).txFail = !s.txVerdict.ok := rfl
  have htruncated : (frameSent bytes s).trunc =
      if s.op.op = 0x3 then decide (s.op.len8.toNat < s.op.tlen.toNat) else s.trunc := rfl
  rw [encStatus, hcfg, htxFail, htruncated, hok, htrunc]
  simp

end

/-- Settles O17: the offer is accepted into `ENC_TX`, the frame of the latch is sent, and the operation's drain completes it. -/
theorem encoderRunSendsItsFrame : Obligations.EncoderRunSendsItsFrame := by
  rintro i frame op bytes v s hidle rfl hframe hencoder hcode hok
  obtain ⟨-, hopcode⟩ := latchFrame_wellFormed hframe
  have hop : 1 ≤ (latchOf s.staging).op.toNat ∧ (latchOf s.staging).op.toNat ≤ 7 :=
    hopcode ▸ opcode_of_encoderInstr hencoder
  have haccept : act (.host (.write 0x02C v)) s = .next (accepted .encTx s) := by
    rw [← acceptCommand_encoder s hop]
    exact act_go_idle v hidle
  have hsend : act .controller (accepted .encTx s) = .next (frameSent bytes (accepted .encTx s)) :=
    act_controller_encTx rfl hframe hencoder hcode
  have hdrain := exec_drainPhase_eq (s := frameSent bytes (accepted .encTx s)) rfl hop
  have hbusy : (frameSent bytes (accepted .encTx s)).ctl ≠ .idle := by
    show drainPhase _ ≠ _
    unfold drainPhase
    split <;> decide
  rw [← act_controller_of_busy hbusy] at hdrain
  refine ⟨_, (runEvents_cons haccept).trans ((runEvents_cons hsend).trans (runEvents_cons hdrain)), ?_⟩
  have hstatus := encStatus_frameSent (bytes := bytes) (s := accepted .encTx s) hok rfl
  have hwire : (frameSent bytes (accepted .encTx s)).wire = s.wire ++ bytes :=
    congrArg (s.wire ++ ·) (if_pos hok)
  rw [stagedInstr_opcode]
  by_cases hpage : (latchOf s.staging).op = 0x5
  · have hpage' : (frameSent bytes (accepted .encTx s)).op.op = 0x5 := hpage
    rw [if_pos hpage', if_pos hpage, if_pos hpage]
    exact ⟨rfl, hwire, rfl, rfl, hstatus⟩
  · have hpage' : ¬ (frameSent bytes (accepted .encTx s)).op.op = 0x5 := hpage
    rw [if_neg hpage', if_neg hpage, if_neg hpage]
    exact ⟨rfl, hwire, rfl, rfl, hstatus⟩

end Sys2Proof.Machine
end

section
/-! SUPPORT. Steps of the whole machine: what every instruction and every move leaves alone, where the wire and the result registers
change, and the obligations on steps, Host accesses and received bytes. -/

namespace Sys2Proof.Machine

/-! ### The families of commands -/

/-- A command is an encoder operation, a poll, a read, a codec operation or reserved. -/
theorem command_cases {i : Instr} (h : frameCommand i = none) :
    encoderInstr i = true ∨ i = .pollEvent ∨ (∃ m a T, i = .readText m a T) ∨
    ((∃ hi lo, i = .mergeAddress hi lo) ∨ ∃ a, i = .splitAddress a) ∨
    ∀ s, exec i s = .next (reservedOp s) := by
  cases i with
  | writeFloat | writeInt16 | writeString | setBuzzer | switchPage | appendCurvePoint | clearCurve => exact .inl rfl
  | pollEvent => exact .inr (.inl rfl)
  | readText m a T => exact .inr (.inr (.inl ⟨m, a, T, rfl⟩))
  | mergeAddress hi lo => exact .inr (.inr (.inr (.inl (.inl ⟨hi, lo, rfl⟩))))
  | splitAddress a => exact .inr (.inr (.inr (.inl (.inr ⟨a, rfl⟩))))
  | reserved0 | reservedC | reservedD | reservedE | reservedF => exact .inr (.inr (.inr (.inr fun _ => rfl)))
  | _ => cases h

/-- A frame is one of the encoder's or the read request. -/
theorem frame_cases {i : Instr} (h : frameCommand i ≠ none) :
    encoderInstr i = true ∨ ∃ a m, i = .frameReadTextRequest a m := by
  cases i with
  | frameReadTextRequest a m => exact .inr ⟨a, m, rfl⟩
  | frameWriteFloat | frameWriteInt16 | frameWriteString | frameSetBuzzer | frameSwitchPage | frameAppendCurvePoint
  | frameClearCurve => exact .inl rfl
  | _ => exact absurd rfl h

theorem reservedOp_cases (s : State) :
    (s.ctl = .idle ∧ reservedOp s = complete .invalidOp (latch s)) ∨ (s.ctl ≠ .idle ∧ reservedOp s = refuseOffer s) := by
  cases hctl : s.ctl <;> simp [reservedOp, hctl]

/-! ### What every instruction leaves alone -/

section
variable {i : Instr} {s t : State}

theorem encoderMove_rx (h : EncoderMove i s t) : t.rx <:+ s.rx := by
  cases h with
  | syncDrain => exact List.dropWhile_suffix _
  | allDrain => exact List.nil_suffix
  | _ => exact List.suffix_rfl

/-- Every instruction has a next state, keeps the configuration and takes bytes of `RX` at its head alone. -/
theorem exec_frame (i : Instr) (s : State) : ∃ t, exec i s = .next t ∧ t.cfg = s.cfg ∧ t.rx <:+ s.rx := by
  have encoder (h : encoderInstr i = true) : ∃ t, exec i s = .next t ∧ t.cfg = s.cfg ∧ t.rx <:+ s.rx := by
    obtain ⟨t, hexec, hmove⟩ := exec_encoder (s := s) h
    refine ⟨t, hexec, ?_, encoderMove_rx hmove⟩
    cases hmove <;> rfl
  by_cases hi : frameCommand i = none
  · rcases command_cases hi with h | rfl | ⟨m, a, T, rfl⟩ | h | h
    · exact encoder h
    · obtain ⟨t, hexec, hrx, -, -, -, -, -, -, -, -, -, hcfg, -⟩ := pollLeavesOtherUnitsAlone s
      exact ⟨t, hexec, hcfg, hrx⟩
    · obtain ⟨t, hexec, hrx, -, -, -, -, -, -, hcfg, -⟩ := readerLeavesOtherUnitsAlone m a T s
      exact ⟨t, hexec, hcfg, hrx⟩
    · obtain ⟨t, hexec, hrx, -, -, -, -, -, -, -, -, hcfg, -⟩ := codecLeavesOtherUnitsAlone i s h
      exact ⟨t, hexec, hcfg, hrx ▸ List.suffix_rfl⟩
    · rcases reservedOp_cases s with ⟨-, hop⟩ | ⟨-, hop⟩ <;>
        exact ⟨_, h s, by rw [hop]; rfl, by rw [hop]; exact List.suffix_rfl⟩
  · rcases frame_cases hi with h | ⟨a, m, rfl⟩
    · exact encoder h
    · by_cases hctl : s.ctl = .rtTx
      · exact ⟨_, exec_frameReadTextRequest_rtTx a m hctl, by rw [readTx_eq]; rfl,
          by rw [readTx_eq]; exact List.suffix_rfl⟩
      · exact ⟨s, exec_frameReadTextRequest_foreign a m hctl, rfl, List.suffix_rfl⟩

end

/-- A move runs the Controller's instruction or an accepted command; any other keeps the configuration and the wire and, unless it
is reset, the results. -/
theorem act_instruction_or_frame (e : Event) (s : State) :
    (e = .controller ∧ s.ctl ≠ .idle ∧ act e s = exec (currentInstr s) s) ∨
    (s.ctl = .idle ∧ act e s = exec (stagedInstr s.staging) s) ∨
    ∃ t, act e s = .next t ∧ t.cfg = s.cfg ∧ t.wire = s.wire ∧
      (e ≠ .host .reset → t.evt = s.evt ∧ t.pageCache = s.pageCache) := by
  rcases act_cases e s with h | ⟨-, -, h⟩ | ⟨v, -, hidle, h⟩ | ⟨v, -, -, h⟩ | ⟨o, v, -, -, h⟩ | ⟨o, -, h⟩ | ⟨he, h⟩ |
    ⟨b, -, h⟩ | ⟨v, -, h⟩ | ⟨-, h⟩
  · exact .inl h
  · exact .inr (.inr ⟨_, h, rfl, rfl, fun _ => ⟨rfl, rfl⟩⟩)
  · exact .inr (.inl ⟨hidle, h⟩)
  · exact .inr (.inr ⟨_, h, rfl, rfl, fun _ => ⟨rfl, rfl⟩⟩)
  · exact .inr (.inr ⟨_, h, rfl, rfl, fun _ => ⟨rfl, rfl⟩⟩)
  · exact .inr (.inr ⟨_, h, rfl, rfl, fun _ => ⟨rfl, rfl⟩⟩)
  · exact .inr (.inr ⟨_, h, rfl, rfl, fun hreset => absurd he hreset⟩)
  · rcases receive_cases b s with ⟨-, hreceive⟩ | ⟨-, hreceive⟩ <;> rw [hreceive] at h <;>
      exact .inr (.inr ⟨_, h, rfl, rfl, fun _ => ⟨rfl, rfl⟩⟩)
  · exact .inr (.inr ⟨_, h, rfl, rfl, fun _ => ⟨rfl, rfl⟩⟩)
  · exact .inr (.inr ⟨_, h, rfl, rfl, fun _ => ⟨rfl, rfl⟩⟩)

/-- Every move has a next state and keeps the configuration. -/
theorem act_frame (e : Event) (s : State) : ∃ t, act e s = .next t ∧ t.cfg = s.cfg := by
  rcases act_instruction_or_frame e s with ⟨-, -, h⟩ | ⟨-, h⟩ | ⟨t, h, hcfg, -⟩
  · obtain ⟨t, hexec, hcfg, -⟩ := exec_frame (currentInstr s) s
    exact ⟨t, h.trans hexec, hcfg⟩
  · obtain ⟨t, hexec, hcfg, -⟩ := exec_frame (stagedInstr s.staging) s
    exact ⟨t, h.trans hexec, hcfg⟩
  · exact ⟨t, h, hcfg⟩

/-- A step is a move from the state with its agenda entry, or its moment, taken off. -/
theorem step_eq_act (s : State) : ∃ e agenda moment, step s = act e { s with agenda := agenda, moment := moment } := by
  rcases step_cases s with ⟨e, rest, -, h⟩ | ⟨-, h⟩
  · exact ⟨e, rest, s.moment, h⟩
  · exact ⟨_, s.agenda, s.moment + 1, h⟩

/-- Settles O59: every move has a next state. -/
theorem everyStepHasANextState : Obligations.EveryStepHasANextState := by
  intro s
  obtain ⟨e, agenda, moment, h⟩ := step_eq_act s
  obtain ⟨t, hact, -⟩ := act_frame e { s with agenda := agenda, moment := moment }
  exact ⟨t, h.trans hact⟩

/-- Settles O57: every move keeps the configuration. -/
theorem configurationNeverChanges : Obligations.ConfigurationNeverChanges := by
  intro s t hstep
  obtain ⟨e, agenda, moment, h⟩ := step_eq_act s
  obtain ⟨u, hact, hcfg⟩ := act_frame e { s with agenda := agenda, moment := moment }
  obtain rfl : t = u := Host.Outcome.next.inj (hstep.symm.trans (h.trans hact))
  exact hcfg

/-- Settles O60: the step reads its move, and the two moves that run an instruction are its `exec`. -/
theorem stepRunsTheFetchedInstruction : Obligations.StepRunsTheFetchedInstruction := by
  intro i v e rest s
  have head {e : Event} (h : s.agenda = e :: rest) : step s = act e { s with agenda := rest } := by
    simp only [step, nextMove, h]
  have offers {s : State} (hidle : s.ctl = .idle) (hi : stagedInstr s.staging = i) :
      act (.host (.write 0x02C v)) s = exec i s := by
    rw [← hi]
    simp only [act, hostStep, goOffset, if_true, offer, hidle]
  have runs {s : State} (hbusy : s.ctl ≠ .idle) (hi : currentInstr s = i) : act .controller s = exec i s := by
    rw [act_controller_of_busy hbusy, hi]
  refine ⟨head, fun h => ?_, offers, runs, fun h hidle hi => (head h).trans (offers hidle hi),
    fun h hbusy hi => (head h).trans (runs hbusy hi)⟩
  simp only [step, nextMove, h]

/-! ### The wire (R42, R49) -/

section
variable {i : Instr} {s t : State} {op : BitVec 4} {bytes : List Byte}

/-- A command writes the wire only in its transmit phase. -/
theorem exec_command_wire (hi : frameCommand i = none) (hencTx : encoderInstr i = true → s.ctl ≠ .encTx)
    (hrtTx : ∀ m a T, i = .readText m a T → s.ctl ≠ .rtTx) (hexec : exec i s = .next t) : t.wire = s.wire := by
  have same {u : State} (hu : exec i s = .next u) (hwire : u.wire = s.wire) : t.wire = s.wire := by
    rwa [Host.Outcome.next.inj (hexec.symm.trans hu)]
  rcases command_cases hi with h | rfl | ⟨m, a, T, rfl⟩ | h | h
  · obtain ⟨u, hu, hmove⟩ := exec_encoder (s := s) h
    cases hmove with
    | transmit body trunc hctl => exact absurd hctl (hencTx h)
    | _ => exact same hu rfl
  · obtain ⟨u, hu, -, hwire, -⟩ := pollLeavesOtherUnitsAlone s
    exact same hu hwire
  · obtain ⟨u, hu, -, -, -, -, -, -, -, -, -, -, -, hwire, -⟩ := readerLeavesOtherUnitsAlone m a T s
    exact same hu (hwire (hrtTx m a T rfl)).1
  · obtain ⟨u, hu, -, hwire, -⟩ := codecLeavesOtherUnitsAlone i s h
    exact same hu hwire
  · rcases reservedOp_cases s with ⟨-, hop⟩ | ⟨-, hop⟩ <;> exact same (h s) (by rw [hop]; rfl)

/-- A frame adds its own bytes to the wire, in a transmit phase, as the verdict decides. -/
theorem exec_frame_wire (hi : frameCommand i ≠ none) (hcode : encode s.cfg i = .frame op bytes)
    (hexec : exec i s = .next t) :
    t.wire = s.wire ∨ (s.ctl = .encTx ∨ s.ctl = .rtTx) ∧
      t.wire = s.wire ++ (if s.txVerdict.ok = true then bytes else bytes.take s.txVerdict.sent) := by
  rcases frame_cases hi with hencoder | ⟨a, m, rfl⟩
  · by_cases hctl : s.ctl = .encTx
    · obtain rfl := Host.Outcome.next.inj ((exec_frame_sends hencoder hcode hctl).symm.trans hexec)
      exact .inr ⟨.inl hctl, rfl⟩
    · obtain ⟨u, hu, hmove⟩ := exec_encoder (s := s) hencoder
      obtain rfl : t = u := Host.Outcome.next.inj (hexec.symm.trans hu)
      cases hmove with
      | transmit body trunc h => exact absurd h hctl
      | _ => exact .inl rfl
  · by_cases hctl : s.ctl = .rtTx
    · obtain ⟨-, rfl⟩ := Code.frame.inj hcode
      obtain rfl := Host.Outcome.next.inj ((exec_frameReadTextRequest_rtTx a m hctl).symm.trans hexec)
      rw [readTx_eq]
      exact .inr ⟨.inr hctl, rfl⟩
    · obtain rfl := Host.Outcome.next.inj ((exec_frameReadTextRequest_foreign a m hctl).symm.trans hexec)
      exact .inl rfl

theorem encode_of_frame (p : Params) (hi : frameCommand i ≠ none) : ∃ op bytes, encode p i = .frame op bytes := by
  rcases frame_cases hi with hencoder | ⟨a, m, rfl⟩
  · cases i with
    | frameWriteFloat | frameWriteInt16 | frameWriteString | frameSetBuzzer | frameSwitchPage | frameAppendCurvePoint
    | frameClearCurve => exact ⟨_, _, rfl⟩
    | frameReadTextRequest => cases hencoder
    | _ => exact absurd rfl hi
  · exact ⟨_, _, rfl⟩

theorem frameCommand_latchFrame {l : Latch} (h : latchFrame l = some i) : frameCommand i ≠ none := by
  unfold latchFrame at h
  cases hl : latchInstr l with
  | writeString m addr tlen =>
    rw [hl] at h
    obtain ⟨-, hi⟩ := Option.ite_none_right_eq_some.1 h
    cases hi
    nofun
  | _ => rw [hl] at h; cases h <;> nofun

/-- In the latch an operation without a frame is no read and, if it is the encoder's, a refused string. -/
theorem exec_currentInstr_wire_of_no_frame (hframe : latchFrame s.op = none) (hexec : exec (currentInstr s) s = .next t) :
    t.wire = s.wire := by
  have hread (m : Byte) (a : Addr) (T : Word) (h : latchInstr s.op = .readText m a T) : s.ctl ≠ .rtTx := by
    simp only [latchFrame, h, reduceCtorEq] at hframe
  have hlatched : currentInstr s = latchInstr s.op := by
    cases hctl : s.ctl <;> simp only [currentInstr, hctl, hframe, Option.getD_none]
  by_cases hencTx : encoderInstr (latchInstr s.op) = true ∧ s.ctl = .encTx
  · obtain ⟨hencoder, hctl⟩ := hencTx
    have hop : 1 ≤ s.op.op.toNat ∧ s.op.op.toNat ≤ 7 := latchInstr_opcode s.op ▸ opcode_of_encoderInstr hencoder
    have hrefused : RefusedString s.op := by
      by_contra hsent
      obtain ⟨i, hi, -⟩ := latchFrame_encoder hop hsent
      rw [hframe] at hi
      cases hi
    obtain rfl := Host.Outcome.next.inj ((exec_currentInstr_refused hctl hrefused).symm.trans hexec)
    rfl
  · rw [hlatched] at hexec
    exact exec_command_wire (frameCommand_latchInstr _) (fun h hctl => hencTx ⟨h, hctl⟩) hread hexec

end

/-- Settles O56: an instruction's bytes go out in a transmit phase; no other move writes the wire. -/
theorem wireOnlyGrows : Obligations.WireOnlyGrows := by
  intro e s t hact
  rcases act_instruction_or_frame e s with ⟨he, -, h⟩ | ⟨hidle, h⟩ | ⟨u, h, -, hwire, -⟩
  · have hexec := h.symm.trans hact
    by_cases htransmit : s.ctl = .encTx ∨ s.ctl = .rtTx
    · cases hframe : latchFrame s.op with
      | none => exact .inl (exec_currentInstr_wire_of_no_frame hframe hexec)
      | some i =>
        have hcurrent : currentInstr s = i := by
          rcases htransmit with hctl | hctl <;> simp only [currentInstr, hctl, hframe, Option.getD_some]
        obtain ⟨op, bytes, hcode⟩ := encode_of_frame s.cfg (frameCommand_latchFrame hframe)
        rw [hcurrent] at hexec
        rcases exec_frame_wire (frameCommand_latchFrame hframe) hcode hexec with hwire | ⟨hctl, hwire⟩
        · exact .inl hwire
        · exact .inr ⟨he, hctl, i, op, bytes, rfl, hcode, hwire⟩
    · obtain ⟨hencTx, hrtTx⟩ := not_or.1 htransmit
      rw [currentInstr_of_not_transmitting hencTx hrtTx] at hexec
      exact .inl (exec_command_wire (frameCommand_latchInstr _) (fun _ => hencTx) (fun _ _ _ _ => hrtTx) hexec)
  · have hencTx : s.ctl ≠ .encTx := by rw [hidle]; decide
    have hrtTx : s.ctl ≠ .rtTx := by rw [hidle]; decide
    exact .inl (exec_command_wire (frameCommand_stagedInstr _) (fun _ => hencTx) (fun _ _ _ _ => hrtTx)
      (h.symm.trans hact))
  · obtain rfl : t = u := Host.Outcome.next.inj (hact.symm.trans h)
    exact .inl hwire

/-! ### The Host's accesses, received bytes and the start state -/

/-- Settles O49: a read writes `hostData`, and a write but to `GO` the staging registers. -/
theorem hostReadHasNoSideEffect : Obligations.HostReadHasNoSideEffect := fun _ v s =>
  ⟨rfl, fun hgo => ⟨_, act_write v s hgo⟩⟩

/-- Settles O52: whether there is room decides between the tail of `RX` and nothing. -/
theorem receivedByteIsAppended : Obligations.ReceivedByteIsAppended := by
  intro b s
  have receives : act (.link (.receive b)) s = .next (receive b s) := rfl
  rw [receives]
  refine ⟨fun hroom => ?_, fun ⟨c, hcapacity, hfull⟩ => ?_⟩
  · have hroom : rxHasRoom s = true := by
      rw [rxHasRoom_iff]
      intro c hc
      rcases hroom with hnone | ⟨c', hc', hlt⟩
      · rw [hnone] at hc
        cases hc
      · obtain rfl : c' = c := Option.some.inj (hc'.symm.trans hc)
        exact hlt
    rw [receive, if_pos hroom]
    rfl
  · have hfull : ¬ rxHasRoom s = true := fun hroom => Nat.not_lt.2 hfull ((rxHasRoom_iff s).1 hroom c hcapacity)
    rw [receive, if_neg hfull]

/-- Settles O2: the start state has every register at its reset value. -/
theorem startStateIsAResetState : Obligations.StartStateIsAResetState :=
  ⟨rfl, statusWord_resetInput State.reset, rfl, rfl⟩

end Sys2Proof.Machine
end

section
/-! SUPPORT. The listener's collecting in both modes, in the closed form of `withBody` and `published`, with the obligations on
whole, incomplete and held polls. -/

namespace Sys2Proof.Machine

/-! ### A frame that is complete, and its Event (R89, R99) -/

section
variable {s : State} {l : ListenerRegs} {n c : Byte} {body rest : List Byte}

theorem published_evt_freshFrame (s : State) (hn : n ≠ 0) :
    (published (withBody body (freshFrame n)) s).evt = eventOf n body := by
  have hpos : 0 < n.toNat := Nat.pos_of_ne_zero fun h => hn (BitVec.eq_of_toNat_eq h)
  have hdata : bodyByteAt n.toNat 0 body 0 = body.getD (n.toNat - 1) 0 := if_pos hpos
  have hevent : (published (withBody body (freshFrame n)) s).evt =
      { valid := true, cmd := body.getD 0 0, start := body.getD 1 0, stop := body.getD 2 0
        data := bodyByteAt n.toNat 0 body 0, len := n } := rfl
  rw [hevent, hdata]
  rfl

/-- The index after taking a body that the frame still has room for. -/
theorem toNat_withBody_idx (h : l.idx.toNat + body.length ≤ l.n.toNat) :
    (withBody body l).idx.toNat = l.idx.toNat + body.length := by
  have := l.n.isLt
  rw [withBody_idx, BitVec.toNat_add, BitVec.toNat_ofNat]
  omega

theorem isStray_eq_false (h5A : n ≠ 0x5A) (hA5 : n ≠ 0xA5) (h00 : n ≠ 0x00) : isStray n = false :=
  Bool.eq_false_iff.2 (mt (isStray_iff n).1 (not_or.2 ⟨h5A, not_or.2 ⟨hA5, h00⟩⟩))

/-! ### One byte at a time: the legacy `PE_COLLECT` (R93) -/

theorem pollCollectLegacy_held (hrx : s.rx = []) : pollCollectLegacy s = s := by
  simp only [pollCollectLegacy, hrx]

theorem pollCollectLegacy_last (hrx : s.rx = c :: rest) (hlast : s.lst.idx + 1 = s.lst.n) :
    pollCollectLegacy s = published (storeBodyByte c s.lst) { s with rx := rest } := by
  rcases pollCollectLegacy_cases s with ⟨hempty, -⟩ | ⟨c', rest', hrx', -, h⟩ | ⟨-, -, -, hmore, -⟩
  · cases hrx.symm.trans hempty
  · obtain ⟨rfl, rfl⟩ := List.cons.inj (hrx.symm.trans hrx')
    exact h
  · exact absurd hlast hmore

theorem pollCollectLegacy_more (hrx : s.rx = c :: rest) (hmore : s.lst.idx + 1 ≠ s.lst.n) :
    pollCollectLegacy s = { s with rx := rest, lst := storeBodyByte c s.lst } := by
  rcases pollCollectLegacy_cases s with ⟨hempty, -⟩ | ⟨-, -, -, hlast, -⟩ | ⟨c', rest', hrx', -, h⟩
  · cases hrx.symm.trans hempty
  · exact absurd hlast hmore
  · obtain ⟨rfl, rfl⟩ := List.cons.inj (hrx.symm.trans hrx')
    exact h

/-- Settles O20: the step is held, takes a byte, or takes the last one and publishes. -/
theorem legacyPollCollectsOneByte : Obligations.LegacyPollCollectsOneByte := by
  intro s hcollect
  rw [exec_pollEvent_collect hcollect]
  refine ⟨fun hrx => congrArg _ (pollCollectLegacy_held hrx), fun c rest hrx => ⟨_, rfl, ?_⟩⟩
  by_cases hlast : s.lst.idx + 1 = s.lst.n
  · rw [pollCollectLegacy_last hrx hlast]
    exact ⟨rfl, rfl, rfl, rfl, rfl, rfl, rfl, fun hmore => absurd hlast hmore, fun _ => ⟨rfl, rfl, rfl, rfl⟩⟩
  · rw [pollCollectLegacy_more hrx hlast]
    exact ⟨rfl, rfl, rfl, rfl, rfl, rfl, rfl, fun _ => ⟨hcollect, rfl, rfl, rfl⟩, fun h => absurd h hlast⟩

/-! ### A whole legacy poll (R95) -/

theorem controllerSteps_succ {t : State} (k : Nat) (h : act .controller s = .next t) :
    controllerSteps (k + 1) s = controllerSteps k t := runEvents_cons h

theorem act_controller_poll (hctl : s.ctl = .peStart ∨ s.ctl = .peCollect) (hop : s.op.op = 0x8) :
    act .controller s = exec .pollEvent s := by
  have hbusy : s.ctl ≠ .idle := by rcases hctl with h | h <;> rw [h] <;> decide
  have hcurrent : currentInstr s = latchInstr s.op := by
    rcases hctl with h | h <;> simp only [currentInstr, h]
  rw [act_controller_of_busy hbusy, hcurrent, latchInstr_pollEvent (congrArg BitVec.toNat hop)]

/-- As many Controller steps as the frame lacks bytes take them from `RX` and publish. -/
theorem controllerSteps_collect (hctl : s.ctl = .peCollect) (hop : s.op.op = 0x8) (hpos : body ≠ [])
    (hlength : s.lst.idx.toNat + body.length = s.lst.n.toNat) (hrx : s.rx = body ++ rest) :
    controllerSteps body.length s = .next (published (withBody body s.lst) { s with rx := rest }) := by
  induction body generalizing s with
  | nil => exact absurd rfl hpos
  | cons c bs ih =>
    simp only [List.length_cons] at hlength ⊢
    have hlt : s.lst.idx.toNat < s.lst.n.toNat := by omega
    have hidx : (s.lst.idx + 1).toNat = s.lst.idx.toNat + 1 :=
      toNat_withBody_idx (l := s.lst) (body := [c]) (by simp; omega)
    have hact := (act_controller_poll (.inr hctl) hop).trans (exec_pollEvent_collect hctl)
    by_cases hbs : bs = []
    · subst hbs
      have hlast : s.lst.idx + 1 = s.lst.n := BitVec.eq_of_toNat_eq (hidx.trans hlength)
      rw [pollCollectLegacy_last hrx hlast] at hact
      rw [withBody_cons c [] s.lst hlt, withBody_nil]
      exact controllerSteps_succ 0 hact
    · have hrest : 0 < bs.length := List.length_pos_iff.2 hbs
      have hmore : s.lst.idx + 1 ≠ s.lst.n := fun h => by rw [h] at hidx; omega
      rw [pollCollectLegacy_more hrx hmore] at hact
      rw [controllerSteps_succ _ hact, withBody_cons c bs s.lst hlt]
      exact ih (s := { s with rx := bs ++ rest, lst := storeBodyByte c s.lst }) hctl hop hbs
        (by simp only [storeBodyByte_idx, storeBodyByte_n, hidx]; omega) rfl

/-- Settles O22: one step reads the length, and N steps take the body and publish. -/
theorem legacyPollDecodesBufferedFrame : Obligations.LegacyPollDecodesBufferedFrame := by
  intro n body rest s hstart hop hlegacy _ h5A hA5 h00 hlength hrx
  obtain ⟨-, -, hreads⟩ := legacyPollReadsLength s hstart hlegacy
  have hact := (act_controller_poll (.inl hstart) hop).trans (hreads n (body ++ rest) hrx h5A hA5 h00)
  have hpos : body ≠ [] := by
    rintro rfl
    exact h00 (BitVec.eq_of_toNat_eq hlength.symm)
  have hcollect := controllerSteps_collect
    (s := { s with rx := body ++ rest, ctl := .peCollect, lst := freshFrame n }) (rest := rest) rfl hop hpos
    ((Nat.zero_add _).trans hlength) rfl
  have hsteps : 1 + n.toNat = body.length + 1 := by omega
  have hrun := (congrArg (controllerSteps · s) hsteps).trans ((controllerSteps_succ body.length hact).trans hcollect)
  exact ⟨_, hrun, rfl, rfl, rfl, published_evt_freshFrame _ h00, rfl, rfl, rfl, rfl⟩

/-! ### All bytes at once: the hardened `PE_START` (R96) -/

/-- A frame whose missing bytes are buffered is published, whatever its elapsed time. -/
theorem pollCollect_complete (hrx : s.rx = body ++ rest) (hlength : s.lst.idx.toNat + body.length = s.lst.n.toNat) :
    pollCollect s = published (withBody body s.lst) { s with rx := rest } := by
  have hcollect := collectBody_all body rest s.lst hlength.le (.inr hlength)
  have hidx : (withBody body s.lst).idx = (withBody body s.lst).n :=
    BitVec.eq_of_toNat_eq ((toNat_withBody_idx hlength.le).trans hlength)
  simp only [pollCollect, hrx, hcollect]
  exact if_pos hidx

/-- A frame that stays incomplete takes every buffered byte; from its deadline on it is discarded, before it kept. -/
theorem pollCollect_incomplete (hlength : s.lst.idx.toNat + s.rx.length < s.lst.n.toNat) :
    pollCollect s = if s.cfg.frameTimeout.toNat ≤ s.lst.elapsed.toNat
      then withoutEvent .frameTimeout { s with rx := [], lst := ListenerRegs.zero }
      else withoutEvent .noEvent { s with rx := [], lst := withBody s.rx s.lst } := by
  have hcollect := collectBody_all s.rx [] s.lst hlength.le (.inl rfl)
  rw [List.append_nil] at hcollect
  have hidx : ¬ (withBody s.rx s.lst).idx = (withBody s.rx s.lst).n := fun h => by
    have := (toNat_withBody_idx hlength.le).symm.trans (congrArg BitVec.toNat h)
    rw [withBody_n] at this
    omega
  simp only [pollCollect, hcollect]
  exact if_neg hidx

theorem pollStartHardened_collecting (h : s.lst.state = .collectingPayload) : pollStartHardened s = pollCollect s := by
  simp only [pollStartHardened, h]

/-- The poll that reads a length goes on to collect in the same step. -/
theorem pollStartHardened_length (hstate : s.lst.state = .awaitingLength) (hrx : s.rx = n :: rest)
    (hlength : isStray n = false) : pollStartHardened s = pollCollect { s with rx := rest, lst := freshFrame n } := by
  simp only [pollStartHardened, hstate, readLength_length hrx hlength]
  rfl

theorem pollStartHardened_of_readLength_idle (hstate : s.lst.state = .awaitingLength)
    (h : (readLength s).lst.state = .idle) : pollStartHardened s = readLength s := by
  simp only [pollStartHardened, hstate, h]

/-- A hardened poll ends with an Event, or without one and with `NO_EVENT` or `FRAME_TIMEOUT` (R98). -/
def PollEnded (t : State) : Prop :=
  t.ctl = .idle ∧
    ((t.code = .ok ∧ t.evt.valid = true ∧ t.lst.state = .idle) ∨ (t.code = .noEvent ∧ t.evt = EventRegs.zero) ∨
     (t.code = .frameTimeout ∧ t.evt = EventRegs.zero ∧ t.lst = ListenerRegs.zero))

theorem pollCollect_ended (s : State) : PollEnded (pollCollect s) := by
  obtain ⟨t, -, ⟨-, h⟩ | ⟨-, -, h⟩ | ⟨-, -, h⟩⟩ := pollCollect_cases s <;> rw [h]
  · exact ⟨rfl, .inl ⟨rfl, rfl, rfl⟩⟩
  · exact ⟨rfl, .inr (.inr ⟨rfl, rfl, rfl⟩)⟩
  · exact ⟨rfl, .inr (.inl ⟨rfl, rfl⟩)⟩

theorem pollStartHardened_ended (s : State) : PollEnded (pollStartHardened s) := by
  cases hstate : s.lst.state with
  | awaitingLength =>
    rcases readLength_cases s with ⟨-, h⟩ | ⟨b, r, -, -, h⟩ | ⟨b, r, hrx, hlength, -⟩
    · rw [pollStartHardened_of_readLength_idle hstate (by rw [h]; rfl), h]
      exact ⟨rfl, .inr (.inl ⟨rfl, rfl⟩)⟩
    · rw [pollStartHardened_of_readLength_idle hstate (by rw [h]; rfl), h]
      exact ⟨rfl, .inr (.inl ⟨rfl, rfl⟩)⟩
    · rw [pollStartHardened_length hstate hrx hlength]
      exact pollCollect_ended _
  | collectingPayload =>
    rw [pollStartHardened_collecting hstate]
    exact pollCollect_ended s
  | idle =>
    simp only [pollStartHardened, hstate]
    exact pollCollect_ended s

end

/-- Settles O23: a fresh frame is published with its Event, a resumed one with the bytes kept and taken. -/
theorem hardenedPollDecodesBufferedFrame : Obligations.HardenedPollDecodesBufferedFrame := by
  intro n body rest s hstart hmode
  rw [exec_pollEvent_hardenedStart hstart hmode]
  refine ⟨fun hstate h5A hA5 h00 hlength hrx => ?_, fun hstate hlength hrx => ?_⟩
  · rw [List.cons_append] at hrx
    rw [pollStartHardened_length hstate hrx (isStray_eq_false h5A hA5 h00),
      pollCollect_complete (s := { s with rx := body ++ rest, lst := freshFrame n }) rfl
        ((Nat.zero_add _).trans hlength)]
    exact ⟨_, rfl, rfl, rfl, rfl, published_evt_freshFrame _ h00, rfl, rfl, rfl, rfl⟩
  · rw [pollStartHardened_collecting hstate, pollCollect_complete hrx hlength]
    rfl

/-- Settles O24: each way through `PE_START` ends the poll; an empty stream or a stray byte ends it where `ReadLength()` does. -/
theorem hardenedPollNeverHolds : Obligations.HardenedPollNeverHolds := by
  intro s hstart hmode
  rw [exec_pollEvent_hardenedStart hstart hmode]
  refine ⟨⟨_, rfl, pollStartHardened_ended s⟩, fun hstate hrx => ?_, fun hstate b rest hrx hstray => ?_⟩
  · have hread := readLength_empty hrx
    rw [pollStartHardened_of_readLength_idle hstate (by rw [hread]; rfl), hread]
  · have hread := readLength_stray hrx ((isStray_iff b).2 hstray)
    rw [pollStartHardened_of_readLength_idle hstate (by rw [hread]; rfl), hread]

/-- Settles O25: the deadline decides what becomes of the incomplete frame; a fresh one's elapsed time is 0. -/
theorem hardenedPartialFrameTimesOut : Obligations.HardenedPartialFrameTimesOut := by
  intro s hstart hmode
  rw [exec_pollEvent_hardenedStart hstart hmode]
  refine ⟨fun hstate hlength => ?_, fun n body hstate h5A hA5 h00 hrx hlength => ?_⟩
  · rw [pollStartHardened_collecting hstate, pollCollect_incomplete hlength]
    refine ⟨fun htime => ?_, fun htime => ?_⟩
    · rw [if_pos htime]
      rfl
    · rw [if_neg (Nat.not_le.2 htime)]
  · rw [pollStartHardened_length hstate hrx (isStray_eq_false h5A hA5 h00),
      pollCollect_incomplete (s := { s with rx := body, lst := freshFrame n }) ((Nat.zero_add _).trans_lt hlength)]
    refine ⟨fun hzero => ?_, fun hpos => ?_⟩
    · rw [if_pos (by simp [hzero])]
      rfl
    · have hlate : ¬ s.cfg.frameTimeout.toNat ≤ (freshFrame n).elapsed.toNat := fun h =>
        hpos (BitVec.eq_of_toNat_eq (Nat.le_zero.1 h))
      rw [if_neg hlate]

end Sys2Proof.Machine
end

section
/-! SUPPORT. Runs of the text reader's copy and the two legacy holds, with the obligations these settle. -/

namespace Sys2Proof.Machine

/-! ### The Controller's step in the reader's phases -/

section
variable {s : State}

theorem phaseFits_of_readerPhase (hreader : readerPhase s.ctl = true) (hop : s.op.op.toNat = 9) :
    phaseFits s.ctl s.op.op = true := by
  cases hctl : s.ctl with
  | rtPredrain | rtTx | rtWait | rtCopy | rtFinal => exact decide_eq_true hop
  | _ => rw [hctl] at hreader; cases hreader

theorem act_controller_read (hreader : readerPhase s.ctl = true) (hop : s.op.op.toNat = 9) :
    act .controller s = exec (.readText s.op.len8 s.op.addr s.op.arg) s := by
  have hbusy : s.ctl ≠ .idle := fun h => by rw [h] at hreader; cases hreader
  rw [act_controller_of_busy hbusy, exec_currentInstr (phaseFits_of_readerPhase hreader hop), latchInstr_readText hop]

theorem act_controller_copy (hctl : s.ctl = .rtCopy) (hop : s.op.op.toNat = 9) :
    act .controller s = .next (readCopy s.op.len8 s.op.arg s) :=
  (act_controller_read (by rw [hctl]; rfl) hop).trans (exec_readText_copy hctl)

end

/-! ### The legacy holds (R94, R112, R156) -/

/-- `t` differs from `s` at most in what a Host access, a refused offer, a verdict and a legacy tick write. -/
def Waits (s t : State) : Prop :=
  ∃ ovr g w v elapsed, t = { s with
    ovr := ovr, staging := g, hostData := w, txVerdict := v, rt := { s.rt with elapsed := elapsed } }

section
variable {s t u : State}

theorem Waits.refl (s : State) : Waits s s := ⟨s.ovr, s.staging, s.hostData, s.txVerdict, s.rt.elapsed, rfl⟩

theorem Waits.trans (hst : Waits s t) (htu : Waits t u) : Waits s u := by
  obtain ⟨_, _, _, _, _, rfl⟩ := hst
  obtain ⟨ovr, g, w, v, elapsed, rfl⟩ := htu
  exact ⟨ovr, g, w, v, elapsed, rfl⟩

theorem tick_waits (hlegacy : s.cfg.hardened = false) : Waits s (tick s) := by
  have hlst : (tick s).lst = s.lst := tick_lst_of_not_counting (by simp [hlegacy])
  have htick : tick s = { s with rt := (tick s).rt, lst := (tick s).lst } := rfl
  refine ⟨s.ovr, s.staging, s.hostData, s.txVerdict, (tick s).rt.elapsed, ?_⟩
  rw [htick, hlst, tick_rt_eq_elapsed]

/-- While a legacy block is held, a move that brings nothing leaves it waiting. -/
theorem act_waits {e : Event} (hlegacy : s.cfg.hardened = false) (hbusy : s.ctl ≠ .idle)
    (hheld : act .controller s = .next s) (he : e.bringsNothing = true) : ∃ t, act e s = .next t ∧ Waits s t := by
  cases e with
  | controller => exact ⟨s, hheld, .refl s⟩
  | clock => exact ⟨tick s, rfl, tick_waits hlegacy⟩
  | link a =>
    cases a with
    | receive b => cases he
    | verdict v => exact ⟨_, rfl, s.ovr, s.staging, s.hostData, v, s.rt.elapsed, rfl⟩
  | host a =>
    cases a with
    | reset => cases he
    | read o => exact ⟨_, rfl, s.ovr, s.staging, hostRead o s, s.txVerdict, s.rt.elapsed, rfl⟩
    | write o v =>
      by_cases hgo : o = goOffset
      · exact ⟨_, hgo ▸ act_go_busy v hbusy, true, s.staging, s.hostData, s.txVerdict, s.rt.elapsed, rfl⟩
      · exact ⟨_, act_write v s hgo, s.ovr, stage o v s.staging, s.hostData, s.txVerdict, s.rt.elapsed, rfl⟩

/-- A legacy block that is held however it waits stays held along any moves that bring nothing. -/
theorem runEvents_waits {es : List Event} (hlegacy : s.cfg.hardened = false) (hbusy : s.ctl ≠ .idle)
    (hheld : ∀ u, Waits s u → act .controller u = .next u) (hes : ∀ e ∈ es, e.bringsNothing = true) :
    ∃ t, runEvents es s = .next t ∧ Waits s t := by
  induction es generalizing s with
  | nil => exact ⟨s, rfl, .refl s⟩
  | cons e es ih =>
    obtain ⟨he, hes⟩ := List.forall_mem_cons.1 hes
    obtain ⟨t, hact, hst⟩ := act_waits hlegacy hbusy (hheld s (.refl s)) he
    obtain ⟨hcfg, hctl⟩ : t.cfg = s.cfg ∧ t.ctl = s.ctl := by
      obtain ⟨_, _, _, _, _, rfl⟩ := hst
      exact ⟨rfl, rfl⟩
    obtain ⟨u, hrun, htu⟩ := ih (by rwa [hcfg]) (by rwa [hctl]) (fun u htu => hheld u (hst.trans htu)) hes
    exact ⟨u, (runEvents_cons hact).trans hrun, hst.trans htu⟩

/-- A collecting poll is held while `RX` is empty (R93). -/
theorem collect_held (hctl : s.ctl = .peCollect) (hop : s.op.op = 0x8) (hrx : s.rx = []) :
    act .controller s = .next s := by
  rw [act_controller_poll (.inr hctl) hop, exec_pollEvent_collect hctl, pollCollectLegacy_held hrx]

/-- A legacy copy is held while `RX` is empty (R109). -/
theorem copy_held (hctl : s.ctl = .rtCopy) (hop : s.op.op = 0x9) (hrx : s.rx = []) (hlegacy : s.cfg.hardened = false) :
    act .controller s = .next s := by
  rw [act_controller_copy hctl (congrArg BitVec.toNat hop), readCopy_held hrx (.inl hlegacy)]

end

/-- Settles O21: with `RX` empty the step of `PE_COLLECT` is held. -/
theorem legacyPollHangs : Obligations.LegacyPollHangs := by
  intro es s hctl hop hlegacy hrx hes
  have hheld (u : State) (hsu : Waits s u) : act .controller u = .next u := by
    obtain ⟨_, _, _, _, _, rfl⟩ := hsu
    exact collect_held hctl hop hrx
  have hbusy : s.ctl ≠ .idle := by rw [hctl]; decide
  obtain ⟨t, hrun, _, _, _, _, _, rfl⟩ := runEvents_waits hlegacy hbusy hheld hes
  exact ⟨_, hrun, hctl, decide_eq_true hbusy, hrx, rfl, rfl, rfl⟩

/-- Settles O35: with `RX` empty the step of a legacy `RT_COPY` is held. -/
theorem legacyCopyIsHeld : Obligations.LegacyCopyIsHeld := by
  intro es s hctl hop hlegacy hrx hes
  have hheld (u : State) (hsu : Waits s u) : act .controller u = .next u := by
    obtain ⟨_, _, _, _, _, rfl⟩ := hsu
    exact copy_held hctl hop hrx hlegacy
  have hbusy : s.ctl ≠ .idle := by rw [hctl]; decide
  obtain ⟨t, hrun, _, _, _, _, _, rfl⟩ := runEvents_waits hlegacy hbusy hheld hes
  exact ⟨_, hrun, hctl, hrx, rfl, rfl, rfl⟩

/-! ### The copy of a buffered response (R109, R112) -/

theorem runEvents_append {es es' : List Event} {s t : State} (h : runEvents es s = .next t) :
    runEvents (es ++ es') s = runEvents es' t := by
  induction es generalizing s with
  | nil =>
    obtain rfl := Host.Outcome.next.inj h
    rfl
  | cons e es ih =>
    simp only [runEvents, List.cons_append] at h ⊢
    cases hact : act e s with
    | next u =>
      rw [hact] at h
      exact ih h
    | fault r => rw [hact] at h; cases h
    | refused r => rw [hact] at h; cases h

theorem controllerSteps_add {a : Nat} {s t : State} (b : Nat) (h : controllerSteps a s = .next t) :
    controllerSteps (a + b) s = controllerSteps b t := by
  rw [controllerSteps, List.replicate_add]
  exact runEvents_append h

/-- A byte stored where a text ends extends it. -/
theorem take_toList_setIfInBounds {buf : Vector Byte 255} {k : Nat} (c : Byte) (h : k < 255) :
    (buf.setIfInBounds k c).toList.take (k + 1) = buf.toList.take k ++ [c] := by
  rw [Vector.toList_setIfInBounds, List.take_add_one, List.take_set_of_le (Nat.le_refl k),
    List.getElem?_set_self (by rwa [Vector.length_toList])]
  rfl

theorem add_one_add_ofNat (x : Byte) (n : Nat) : x + 1 + BitVec.ofNat 8 n = x + BitVec.ofNat 8 (n + 1) := by
  rw [BitVec.add_assoc, BitVec.ofNat_add, BitVec.add_comm 1]
  rfl

section
variable {s : State} {c e1 e2 e3 : Byte} {txt rest : List Byte}

theorem act_echo (hctl : s.ctl = .rtCopy) (hop : s.op.op.toNat = 9) (hrx : s.rx = c :: rest)
    (hdisc : s.rt.disc.toNat < 3) :
    act .controller s = .next { s with
      rx := rest, rt := { s.rt with disc := s.rt.disc + 1 }
      ctl := if s.rt.disc.toNat = 2 ∧ s.op.len8 = 0 then .rtFinal else .rtCopy } := by
  rw [act_controller_copy hctl hop, readCopy_echo hrx hdisc, hctl]

theorem act_sentinel (hctl : s.ctl = .rtCopy) (hop : s.op.op.toNat = 9) (hrx : s.rx = 0xFF :: rest)
    (hdisc : s.rt.disc.toNat = 3) :
    act .controller s = .next { s with
      rx := rest, rt := { s.rt with reads := s.rt.reads + 1 }, ctl := .rtFinal } := by
  rw [act_controller_copy hctl hop, readCopy_sentinel hrx hdisc]

/-- Three steps discard the three echo bytes. -/
theorem controllerSteps_echoes (hctl : s.ctl = .rtCopy) (hop : s.op.op.toNat = 9) (hdisc : s.rt.disc = 0)
    (hrx : s.rx = e1 :: e2 :: e3 :: rest) :
    controllerSteps 3 s = .next { s with
      rx := rest, rt := { s.rt with disc := 3 }, ctl := if s.op.len8 = 0 then .rtFinal else .rtCopy } := by
  have echo₁ := act_echo hctl hop hrx (by rw [hdisc]; decide)
  rw [hdisc, if_neg (by simp)] at echo₁
  have echo₂ := act_echo (s := { s with rx := e2 :: e3 :: rest, rt := { s.rt with disc := 0 + 1 }, ctl := .rtCopy })
    rfl hop rfl (by decide : (0 + 1 : BitVec 2).toNat < 3)
  rw [if_neg (by simp)] at echo₂
  have echo₃ := act_echo (s := { s with rx := e3 :: rest, rt := { s.rt with disc := 0 + 1 + 1 }, ctl := .rtCopy })
    rfl hop rfl (by decide : (0 + 1 + 1 : BitVec 2).toNat < 3)
  have hlast : (if (0 + 1 + 1 : BitVec 2).toNat = 2 ∧ s.op.len8 = 0 then Phase.rtFinal else .rtCopy) =
      if s.op.len8 = 0 then .rtFinal else .rtCopy := by simp
  rw [← hlast, controllerSteps_succ 2 echo₁, controllerSteps_succ 1 echo₂, controllerSteps_succ 0 echo₃]
  rfl

/-- One step for each data byte stores them all; the copy ends with the M-th. -/
theorem controllerSteps_data (hctl : s.ctl = .rtCopy) (hop : s.op.op.toNat = 9) (hdisc : s.rt.disc.toNat = 3)
    (hroom : s.rt.reads.toNat < s.op.len8.toNat) (htext : s.textLen = s.rt.reads)
    (hlength : s.rt.reads.toNat + txt.length ≤ s.op.len8.toNat) (hrx : s.rx = txt ++ rest) (htxt : ∀ b ∈ txt, b ≠ 0xFF) :
    ∃ buf, buf.toList.take (s.textLen.toNat + txt.length) = s.textBuf.toList.take s.textLen.toNat ++ txt ∧
      controllerSteps txt.length s = .next { s with
        rx := rest, rt := { s.rt with reads := s.rt.reads + BitVec.ofNat 8 txt.length }
        textBuf := buf, textLen := s.textLen + BitVec.ofNat 8 txt.length
        ctl := if s.rt.reads.toNat + txt.length = s.op.len8.toNat then .rtFinal else .rtCopy } := by
  have := s.op.len8.isLt
  induction txt generalizing s with
  | nil =>
    refine ⟨s.textBuf, by simp, ?_⟩
    have hmore : ¬ s.rt.reads.toNat + ([] : List Byte).length = s.op.len8.toNat := Nat.ne_of_lt hroom
    rw [if_neg hmore, ← hctl, ← List.nil_append rest, ← hrx]
    simp [controllerSteps, runEvents]
  | cons c bs ih =>
    obtain ⟨hc, hbs⟩ := List.forall_mem_cons.1 htxt
    simp only [List.length_cons] at hlength ⊢
    have hnext : (s.rt.reads + 1).toNat = s.rt.reads.toNat + 1 := by
      rw [BitVec.toNat_add]
      simp
      omega
    have hact := act_controller_copy hctl hop
    rw [readCopy_data hrx hdisc hc, hctl] at hact
    have hstored := take_toList_setIfInBounds (buf := s.textBuf) c (k := s.textLen.toNat) (by rw [htext]; omega)
    by_cases hlast : s.rt.reads + 1 = s.op.len8
    · have hend : s.rt.reads.toNat + 1 = s.op.len8.toNat := hnext.symm.trans (congrArg BitVec.toNat hlast)
      obtain rfl : bs = [] := List.length_eq_zero_iff.1 (by omega)
      rw [if_pos hlast] at hact
      rw [if_pos (by simpa using hend)]
      exact ⟨_, hstored, controllerSteps_succ 0 hact⟩
    · have hmore : s.rt.reads.toNat + 1 ≠ s.op.len8.toNat := fun h => hlast (BitVec.eq_of_toNat_eq (hnext.trans h))
      have htextNext : (s.textLen + 1).toNat = s.textLen.toNat + 1 := by rw [htext, hnext]
      have hroomNext : (s.rt.reads + 1).toNat < s.op.len8.toNat := by omega
      have hlengthNext : (s.rt.reads + 1).toNat + bs.length ≤ s.op.len8.toNat := by omega
      rw [if_neg hlast] at hact
      obtain ⟨buf, hbuf, hrun⟩ := ih (s := { s with
        rx := bs ++ rest, rt := { s.rt with reads := s.rt.reads + 1 }
        textBuf := s.textBuf.setIfInBounds s.textLen.toNat c, textLen := s.textLen + 1, ctl := .rtCopy })
        rfl hop hdisc hroomNext (congrArg (· + 1) htext) hlengthNext rfl hbs this
      simp only [hnext, htextNext, hstored, List.append_assoc, List.singleton_append, add_one_add_ofNat] at hbuf hrun
      rw [Nat.add_right_comm, Nat.add_assoc] at hbuf
      rw [Nat.add_right_comm, Nat.add_assoc] at hrun
      exact ⟨buf, hbuf, (controllerSteps_succ _ hact).trans hrun⟩

end

/-- Settles O32: three echoes, then the text byte by byte, then the sentinel unless the text is as long as M. -/
theorem copyTakesTextUpToSentinel : Obligations.CopyTakesTextUpToSentinel := by
  intro e1 e2 e3 txt rest s hctl hop hdisc hreads htextLen hrx htxt hend
  have hop : s.op.op.toNat = 9 := congrArg BitVec.toNat hop
  have hechoes := controllerSteps_echoes hctl hop hdisc hrx
  have := s.op.len8.isLt
  by_cases hM : s.op.len8 = 0
  · have hM' : s.op.len8.toNat = 0 := congrArg BitVec.toNat hM
    obtain rfl : txt = [] := List.length_eq_zero_iff.1 (by omega)
    have hsteps : 3 + min s.op.len8.toNat (([] : List Byte).length + 1) = 3 := by omega
    have hfull : ([] : List Byte).length = s.op.len8.toNat := hM'.symm
    rw [hsteps, hechoes, if_pos hM, if_pos hfull, htextLen]
    exact ⟨_, rfl, rfl, rfl, rfl, rfl, rfl, rfl⟩
  · have hpos : 0 < s.op.len8.toNat := Nat.pos_of_ne_zero fun h => hM (BitVec.eq_of_toNat_eq h)
    have hroom : txt.length ≤ s.op.len8.toNat := by omega
    rw [if_neg hM] at hechoes
    obtain ⟨buf, hbuf, hdata⟩ := controllerSteps_data (txt := txt) (rest := rest)
      (s := { s with rx := txt ++ rest, rt := { s.rt with disc := 3 }, ctl := .rtCopy })
      rfl hop rfl (by simpa [hreads] using hpos) (htextLen.trans hreads.symm) (by simpa [hreads] using hroom) rfl htxt
    have hcopied := (controllerSteps_add txt.length hechoes).trans hdata
    have htextLen' : (s.textLen + BitVec.ofNat 8 txt.length).toNat = txt.length := by
      rw [htextLen]
      simp
      omega
    have htext : buf.toList.take txt.length = txt := by simpa [htextLen] using hbuf
    simp only [hreads] at hcopied
    by_cases hfull : txt.length = s.op.len8.toNat
    · have hsteps : 3 + min s.op.len8.toNat (txt.length + 1) = 3 + txt.length := by omega
      rw [hsteps, hcopied, if_pos hfull]
      exact ⟨_, rfl, if_pos ((Nat.zero_add _).trans hfull), htextLen', htext, rfl, rfl, rfl⟩
    · have hsteps : 3 + min s.op.len8.toNat (txt.length + 1) = 3 + txt.length + 1 := by omega
      obtain ⟨r, rfl⟩ : ∃ r, rest = 0xFF :: r := by
        rcases hend with h | ⟨-, h⟩
        · exact absurd h hfull
        · exact h
      rw [if_neg (by simpa using hfull)] at hcopied
      rw [hsteps, controllerSteps_add 1 hcopied, if_neg hfull]
      exact ⟨_, controllerSteps_succ 0 (act_sentinel rfl hop rfl rfl), rfl, htextLen', htext, rfl, rfl, rfl⟩

end Sys2Proof.Machine
end

section
/-! SUPPORT. Where the result registers change, with the obligation on them. -/

namespace Sys2Proof.Machine

section
variable {i : Instr} {s t : State}

/-- A step of a legacy `PE_START` leaves the event registers or ends the poll. -/
theorem pollStartLegacy_evt (s : State) : (pollStartLegacy s).evt = s.evt ∨ (pollStartLegacy s).ctl = .idle := by
  rcases readLength_cases s with ⟨-, h⟩ | ⟨b, rest, -, -, h⟩ | ⟨b, rest, -, -, h⟩
  · rw [pollStartLegacy_of_idle (by rw [h]; rfl), h]
    exact .inr rfl
  · rw [pollStartLegacy_of_idle (by rw [h]; rfl), h]
    exact .inr rfl
  · rw [pollStartLegacy_of_collecting (by rw [h]; rfl), h]
    exact .inl rfl

theorem pollCollectLegacy_evt (s : State) :
    (pollCollectLegacy s).evt = s.evt ∨ (pollCollectLegacy s).ctl = .idle := by
  rcases pollCollectLegacy_cases s with ⟨-, h⟩ | ⟨c, rest, -, -, h⟩ | ⟨c, rest, -, -, h⟩ <;> rw [h]
  · exact .inl rfl
  · exact .inr rfl
  · exact .inl rfl

/-- A poll writes the event registers only where it ends (R21). -/
theorem exec_pollEvent_evt (hexec : exec .pollEvent s = .next t) :
    t.evt = s.evt ∨ (s.ctl = .peStart ∨ s.ctl = .peCollect) ∧ t.ctl = .idle := by
  have becomes {u : State} (hu : exec .pollEvent s = .next u) : t = u := Host.Outcome.next.inj (hexec.symm.trans hu)
  cases hctl : s.ctl with
  | peStart =>
    cases hmode : s.cfg.hardened with
    | true =>
      rw [becomes (exec_pollEvent_hardenedStart hctl hmode)]
      exact .inr ⟨.inl rfl, (pollStartHardened_ended s).1⟩
    | false =>
      rw [becomes (exec_pollEvent_legacyStart hctl hmode)]
      exact (pollStartLegacy_evt s).imp_right fun h => ⟨.inl rfl, h⟩
  | peCollect =>
    rw [becomes (exec_pollEvent_collect hctl)]
    exact (pollCollectLegacy_evt s).imp_right fun h => ⟨.inr rfl, h⟩
  | idle =>
    have haccept : exec .pollEvent s = .next (acceptPoll s) := exec_command_idle rfl hctl
    rw [becomes haccept, acceptPoll_eq]
    exact .inl rfl
  | _ =>
    rw [becomes (exec_pollEvent_foreign (by rw [hctl]; decide) (by rw [hctl]; decide) (by rw [hctl]; decide))]
    exact .inl rfl

/-- A command leaves the event registers and the page cache but where a poll ends and `SWITCH_PAGE` drains. -/
theorem exec_command_results (hi : frameCommand i = none) (hexec : exec i s = .next t) :
    (t.evt = s.evt ∨ i = .pollEvent ∧ (s.ctl = .peStart ∨ s.ctl = .peCollect) ∧ t.ctl = .idle) ∧
    (t.pageCache = s.pageCache ∨ (∃ page, i = .switchPage page) ∧ s.ctl = .encAllDrain ∧ t.ctl = .idle) := by
  have becomes {u : State} (hu : exec i s = .next u) : t = u := Host.Outcome.next.inj (hexec.symm.trans hu)
  rcases command_cases hi with h | rfl | ⟨m, a, T, rfl⟩ | h | h
  · obtain ⟨u, hu, hmove⟩ := exec_encoder (s := s) h
    rw [becomes hu]
    cases hmove with
    | allDrain page hpage hctl => exact ⟨.inl rfl, .inr ⟨⟨page, hpage⟩, hctl, rfl⟩⟩
    | _ => exact ⟨.inl rfl, .inl rfl⟩
  · obtain ⟨u, hu, -, -, -, -, -, -, -, -, hpage, -⟩ := pollLeavesOtherUnitsAlone s
    exact ⟨(exec_pollEvent_evt hexec).imp_right fun h => ⟨rfl, h⟩, .inl (becomes hu ▸ hpage)⟩
  · obtain ⟨u, hu, -, hevt, -, -, -, hpage, -⟩ := readerLeavesOtherUnitsAlone m a T s
    exact becomes hu ▸ ⟨.inl hevt, .inl hpage⟩
  · obtain ⟨u, hu, -, -, hevt, -, -, -, -, hpage, -⟩ := codecLeavesOtherUnitsAlone i s h
    exact becomes hu ▸ ⟨.inl hevt, .inl hpage⟩
  · rw [becomes (h s)]
    rcases reservedOp_cases s with ⟨-, hop⟩ | ⟨-, hop⟩ <;> rw [hop] <;> exact ⟨.inl rfl, .inl rfl⟩

theorem op_of_latchInstr {l : Latch} {i : Instr} (h : latchInstr l = i) : l.op = i.opcode := by
  rw [← h, latchInstr_opcode]

end

/-- Settles O58: the Controller runs the operation in the latch, and only a poll and a page switch write results. -/
theorem resultsChangeOnlyByTheirOperation : Obligations.ResultsChangeOnlyByTheirOperation := by
  intro e s t hfits hact hreset
  rcases act_instruction_or_frame e s with ⟨rfl, -, h⟩ | ⟨hidle, h⟩ | ⟨u, h, -, -, hresults⟩
  · have hexec := (exec_currentInstr hfits).symm.trans (h.symm.trans hact)
    obtain ⟨hevt, hpage⟩ := exec_command_results (frameCommand_latchInstr _) hexec
    refine ⟨fun hne => ?_, fun hne => ?_⟩
    · obtain ⟨hpoll, hctl, hend⟩ := hevt.resolve_left hne
      exact ⟨rfl, hctl, op_of_latchInstr hpoll, hend⟩
    · obtain ⟨⟨page, hswitch⟩, hctl, hend⟩ := hpage.resolve_left hne
      exact ⟨rfl, hctl, op_of_latchInstr hswitch, hend⟩
  · obtain ⟨hevt, hpage⟩ := exec_command_results (frameCommand_stagedInstr _) (h.symm.trans hact)
    refine ⟨fun hne => ?_, fun hne => ?_⟩
    · obtain ⟨-, hctl, -⟩ := hevt.resolve_left hne
      simp [hidle] at hctl
    · obtain ⟨-, hctl, -⟩ := hpage.resolve_left hne
      simp [hidle] at hctl
  · obtain rfl : t = u := Host.Outcome.next.inj (hact.symm.trans h)
    obtain ⟨hevt, hpage⟩ := hresults hreset
    exact ⟨fun hne => absurd hevt hne, fun hne => absurd hpage hne⟩

end Sys2Proof.Machine
end

section
/-! SUPPORT. The invariant `State.Consistent`: what its parts read, and that every operation, every instruction and every move
keeps it, with the obligations that rest on it. -/

namespace Sys2Proof.Machine

/-! ### What the parts of the invariant read -/

/-- A phase of `POLL_EVENT` (R17). -/
def pollingPhase : Phase → Bool
  | .peStart | .peCollect => true
  | .idle | .encTx | .encSyncDrain | .encAllDrain | .rtPredrain | .rtTx | .rtWait | .rtCopy | .rtFinal | .codec => false

section
variable {s t : State}

theorem ListenerConsistent.congr (h : ListenerConsistent s) (hctl : t.ctl = s.ctl) (hlst : t.lst = s.lst)
    (hcfg : t.cfg = s.cfg) : ListenerConsistent t := by
  obtain ⟨awaiting, starting, collecting, held, unfinished, length, aborted⟩ := h
  constructor <;> rw [hlst] <;> simpa only [hctl, hcfg]

/-- With the listener idle nothing but the phase matters. -/
theorem ListenerConsistent.of_idle (hstate : t.lst.state = .idle) (ht : pollingPhase t.ctl = false) :
    ListenerConsistent t where
  awaiting h := by rw [hstate] at h; cases h
  starting h := by rw [h] at ht; cases ht
  collecting h := by rw [h] at ht; cases ht
  held h := by rw [hstate] at h; cases h
  unfinished h := by rw [hstate] at h; cases h
  length h := by rw [hstate] at h; cases h
  aborted _ := hstate

/-- Outside a poll the listener is idle or keeps an unfinished frame of the hardened mode (R22). -/
theorem ListenerConsistent.kept (h : ListenerConsistent s) (hs : pollingPhase s.ctl = false) :
    s.lst.state = .idle ∨ s.lst.state = .collectingPayload ∧ s.cfg.hardened = true := by
  cases hstate : s.lst.state with
  | idle => exact .inl rfl
  | awaitingLength => rw [h.awaiting hstate] at hs; cases hs
  | collectingPayload =>
    rcases h.held hstate with hmode | hctl
    · exact .inr ⟨rfl, hmode⟩
    · rw [hctl] at hs; cases hs

/-- An unfinished frame of the hardened mode may be kept in any phase outside a poll and a read. -/
theorem ListenerConsistent.of_partial (ht : pollingPhase t.ctl = false) (ht' : readerPhase t.ctl = false)
    (hmode : t.cfg.hardened = true) (hstate : t.lst.state = .collectingPayload) (hidx : t.lst.idx.toNat < t.lst.n.toNat)
    (hlength : isStray t.lst.n = false) : ListenerConsistent t where
  awaiting h := by rw [hstate] at h; cases h
  starting h := by rw [h] at ht; cases ht
  collecting h := by rw [h] at ht; cases ht
  held _ := .inl hmode
  unfinished _ := hidx
  length _ := hlength
  aborted h := by rw [ht'] at h; cases h

/-- From one phase to another outside a poll the listener's part is kept with its registers. -/
theorem ListenerConsistent.of_phase (h : ListenerConsistent s) (hs : pollingPhase s.ctl = false)
    (ht : pollingPhase t.ctl = false) (hlst : t.lst = s.lst) (hcfg : t.cfg = s.cfg)
    (hreader : readerPhase t.ctl = true → s.lst.state = .idle) : ListenerConsistent t := by
  rcases h.kept hs with hstate | ⟨hstate, hmode⟩
  · exact .of_idle (by rw [hlst, hstate]) ht
  · refine .of_partial ht (Bool.eq_false_iff.2 fun h => ?_) (by rw [hcfg, hmode]) (by rw [hlst, hstate])
      (by rw [hlst]; exact h.unfinished hstate) (by rw [hlst]; exact h.length hstate)
    rw [hreader h] at hstate
    cases hstate

theorem EventConsistent.congr (h : EventConsistent s) (hevt : t.evt = s.evt) : EventConsistent t := by
  obtain ⟨empty, length⟩ := h
  constructor <;> rwa [hevt]

theorem EventConsistent.of_empty (hevt : t.evt = EventRegs.zero) : EventConsistent t where
  empty _ := hevt
  length h := by rw [hevt] at h; cases h

theorem ReaderConsistent.congr (h : ReaderConsistent s) (hctl : t.ctl = s.ctl) (hop : t.op = s.op) (hrt : t.rt = s.rt)
    (htext : t.textLen = s.textLen) (hcfg : t.cfg = s.cfg) : ReaderConsistent t := by
  obtain ⟨fresh, waiting, copying, echoes, bounded, final, legacyTimeout⟩ := h
  constructor <;> simpa only [hctl, hop, hrt, htext, hcfg]

/-- Outside a read only a legacy timeout's empty text is left of the reader's part (R113). -/
theorem ReaderConsistent.of_not_reading (ht : readerPhase t.ctl = false)
    (htimeout : t.cfg.hardened = false → t.rt.timedOut = true → t.textLen = 0) : ReaderConsistent t where
  fresh h := by rcases h with h | h <;> rw [h] at ht <;> cases ht
  waiting h := by rw [h] at ht; cases ht
  copying h := by rw [h] at ht; cases ht
  echoes h := by rw [h] at ht; cases ht
  bounded h := by rw [h] at ht; cases ht
  final h := by rw [h] at ht; cases ht
  legacyTimeout := htimeout

/-- The registers that the invariant reads, but for `RX`. -/
def invariantRegs (s : State) :=
  (s.cfg, s.ctl, s.op, s.evt, s.lst, s.textLen, s.rt, s.trunc, s.code)

theorem State.Consistent.congr (h : s.Consistent) (hregs : invariantRegs t = invariantRegs s)
    (hcapacity : ∀ c, s.cfg.rxCapacity = some c → t.rx.length ≤ c) : t.Consistent := by
  simp only [invariantRegs, Prod.mk.injEq] at hregs
  obtain ⟨hcfg, hctl, hop, hevt, hlst, htext, hrt, htrunc, hcode⟩ := hregs
  exact
    { phase := by rw [hctl, hop]; exact h.phase
      listener := h.listener.congr hctl hlst hcfg
      event := h.event.congr hevt
      reader := h.reader.congr hctl hop hrt htext hcfg
      capacity := by rwa [hcfg]
      code := by rw [hcfg, hcode]; exact h.code
      trunc := by rw [htrunc, hop]; exact h.trunc }

theorem State.Consistent.capacity_of_le (h : s.Consistent) (hrx : t.rx.length ≤ s.rx.length) :
    ∀ c, s.cfg.rxCapacity = some c → t.rx.length ≤ c :=
  fun c hc => hrx.trans (h.capacity c hc)

/-! ### Moves that keep the units' registers -/

/-- The registers of the listener, the reader and the configuration. -/
def unitRegs (s : State) := (s.cfg, s.evt, s.lst, s.textLen, s.rt)

/-- A move from a phase outside a poll to one outside a poll and a read, all units' registers kept. -/
theorem State.Consistent.of_unitRegs (h : s.Consistent) (hs : pollingPhase s.ctl = false)
    (ht : pollingPhase t.ctl = false) (ht' : readerPhase t.ctl = false) (hregs : unitRegs t = unitRegs s)
    (hphase : phaseFits t.ctl t.op.op = true) (hrx : t.rx.length ≤ s.rx.length)
    (hcode : t.cfg.hardened = false → legacyCode t.code = true) (htrunc : t.trunc = true → t.op.op = 0x3) :
    t.Consistent := by
  simp only [unitRegs, Prod.mk.injEq] at hregs
  obtain ⟨hcfg, hevt, hlst, htext, hrt⟩ := hregs
  exact
    { phase := hphase
      listener := h.listener.of_phase hs ht hlst hcfg fun hr => by rw [ht'] at hr; cases hr
      event := h.event.congr hevt
      reader := .of_not_reading ht' (by rw [hcfg, hrt, htext]; exact h.reader.legacyTimeout)
      capacity := by rw [hcfg]; exact h.capacity_of_le hrx
      code := hcode
      trunc := htrunc }

theorem State.Consistent.receive (h : s.Consistent) (b : Byte) : (receive b s).Consistent := by
  rcases receive_cases b s with ⟨hroom, hreceive⟩ | ⟨-, hreceive⟩ <;> rw [hreceive]
  · refine h.congr rfl fun c hc => ?_
    have := (rxHasRoom_iff s).1 hroom c hc
    rw [setRx_rx, List.length_append, List.length_singleton]
    omega
  · exact h

/-- A tick moves the elapsed counters alone, which the invariant reads in `RT_PREDRAIN` and `RT_TX` only, where they stand. -/
theorem State.Consistent.tick (h : s.Consistent) : (tick s).Consistent := by
  obtain ⟨awaiting, starting, collecting, held, unfinished, length, aborted⟩ := h.listener
  obtain ⟨fresh, waiting, copying, echoes, bounded, final, legacyTimeout⟩ := h.reader
  refine
    { phase := h.phase, event := h.event.congr rfl, capacity := h.capacity, code := h.code, trunc := h.trunc
      listener := ?_, reader := ?_ }
  · constructor <;> rw [tick_lst_eq_elapsed] <;> assumption
  · have hfresh : s.ctl = .rtPredrain ∨ s.ctl = .rtTx → (Machine.tick s).rt = ReaderRegs.zero ∧ s.textLen = 0 := by
      intro hctl
      have hstands : ¬ (s.ctl = .rtWait ∨ s.ctl = .rtCopy) := by rcases hctl with h | h <;> simp [h]
      rw [tick_rt_of_not_counting hstands]
      exact fresh hctl
    refine ⟨hfresh, ?_, ?_, ?_, ?_, final, ?_⟩ <;> rw [tick_rt_eq_elapsed] <;> assumption

/-- Reset leaves a consistent state, if `RX` is within its capacity. -/
theorem resetInput_consistent (s : State) (hcapacity : ∀ c, s.cfg.rxCapacity = some c → s.rx.length ≤ c) :
    (resetInput s).Consistent where
  phase := rfl
  listener := .of_idle rfl rfl
  event := .of_empty rfl
  reader := .of_not_reading rfl fun _ _ => rfl
  capacity := hcapacity
  code _ := rfl
  trunc h := by cases h

/-- Settles O54: the start state is one that reset leaves, with `RX` empty. -/
theorem resetIsConsistent : Obligations.ResetIsConsistent :=
  resetInput_consistent State.reset fun _ _ => Nat.zero_le _

/-! ### The encoder, the codec and the reserved opcodes -/

theorem legacyCode_encStatus (s : State) (hmode : s.cfg.hardened = false) : legacyCode (encStatus s) = true := by
  simp only [encStatus, hmode, Bool.false_and, Bool.false_eq_true, if_false, legacyCode]

theorem pollingPhase_drainPhase (op : BitVec 4) : pollingPhase (drainPhase op) = false := by
  unfold drainPhase
  split <;> rfl

theorem readerPhase_drainPhase (op : BitVec 4) : readerPhase (drainPhase op) = false := by
  unfold drainPhase
  split <;> rfl

/-- An encoder operation in one of its busy phases keeps the invariant. -/
theorem State.Consistent.encoderMove {i : Instr} (h : s.Consistent) (hencoder : encoderInstr i = true)
    (hop : i.opcode = s.op.op) (hbusy : s.ctl ≠ .idle) (hmove : EncoderMove i s t) : t.Consistent := by
  have hrx := (encoderMove_rx hmove).length_le
  cases hmove with
  | accept hctl => exact absurd hctl hbusy
  | transmit body trunc hctl htrunc =>
    refine h.of_unitRegs (by rw [hctl]; rfl) (pollingPhase_drainPhase _) (readerPhase_drainPhase _) rfl ?_ hrx h.code ?_
    · show phaseFits (drainPhase i.opcode) s.op.op = true
      rw [← hop]
      exact phaseFits_drainPhase (opcode_of_encoderInstr hencoder)
    · intro hset
      rcases htrunc with hsame | hstring
      · exact h.trunc (hsame.symm.trans hset)
      · exact hop.symm.trans hstring
  | invalidArg hctl => exact h.of_unitRegs (by rw [hctl]; rfl) rfl rfl rfl rfl hrx (fun _ => rfl) h.trunc
  | syncDrain hctl =>
    exact h.of_unitRegs (by rw [hctl]; rfl) rfl rfl rfl rfl hrx (legacyCode_encStatus s) h.trunc
  | allDrain page hi hctl =>
    exact h.of_unitRegs (by rw [hctl]; rfl) rfl rfl rfl rfl hrx (legacyCode_encStatus s) h.trunc
  | refuse => exact h.congr rfl h.capacity
  | nothing => exact h

/-- A codec operation keeps the invariant outside `IDLE`. -/
theorem State.Consistent.codecStep {i : Instr} (h : s.Consistent)
    (hi : (∃ hi lo, i = .mergeAddress hi lo) ∨ ∃ a, i = .splitAddress a) (hbusy : s.ctl ≠ .idle)
    (hexec : exec i s = .next t) : t.Consistent := by
  obtain ⟨write, hwritten, m, hi, lo, hwrite⟩ := exec_codec s hi
  obtain rfl := Host.Outcome.next.inj (hwritten.symm.trans hexec)
  by_cases hcodec : s.ctl = .codec
  · rw [codecOp_codec write hcodec, hwrite]
    exact h.of_unitRegs (by rw [hcodec]; rfl) rfl rfl rfl rfl (Nat.le_refl _) (fun _ => rfl) h.trunc
  · rw [codecOp_foreign write hbusy hcodec]
    exact h.congr rfl h.capacity

/-! ### The listener -/

/-- What the invariant asks of the state after a step of a poll, beside what the poll leaves alone. -/
structure PollKept (t : State) : Prop where
  phase : t.ctl = .idle ∨ t.ctl = .peCollect
  listener : ListenerConsistent t
  event : EventConsistent t
  code : t.cfg.hardened = false → legacyCode t.code = true

/-- A poll writes its own registers only, so the rest of the invariant is kept. -/
theorem State.Consistent.of_pollKept (h : s.Consistent) (hop : s.op.op = 0x8) (hwrites : PollWrites s t)
    (hkept : PollKept t) : t.Consistent := by
  obtain ⟨hphase, hlistener, hevent, hcode⟩ := hkept
  obtain ⟨c, code, evt, lst, rx, rfl, hrx⟩ := hwrites
  have hreading : readerPhase c = false := by rcases hphase with rfl | rfl <;> rfl
  exact
    { phase := by
        show phaseFits c s.op.op = true
        rw [hop]
        rcases hphase with rfl | rfl <;> rfl
      listener := hlistener
      event := hevent
      reader := .of_not_reading hreading h.reader.legacyTimeout
      capacity := h.capacity_of_le hrx.length_le
      code := hcode
      trunc := h.trunc }

theorem noEvent_kept {c : StatusCode} (hstate : t.lst.state = .idle)
    (hcode : t.cfg.hardened = false → legacyCode c = true) : PollKept (noEvent c t) where
  phase := .inl rfl
  listener := .of_idle hstate rfl
  event := .of_empty rfl
  code := hcode

/-- Publishing keeps the invariant, since a frame's length is no stray byte. -/
theorem publish_kept (hlength : isStray t.lst.n = false) : PollKept (publish t) where
  phase := .inl rfl
  listener := .of_idle rfl rfl
  event := { empty := fun h => (nomatch h), length := fun _ => hlength }
  code _ := rfl

/-- A length byte begins an unfinished frame. -/
theorem freshFrame_unfinished {n : Byte} (hlength : isStray n = false) :
    (freshFrame n).idx.toNat < (freshFrame n).n.toNat := by
  refine Nat.pos_of_ne_zero fun h => Bool.eq_false_iff.1 hlength ((isStray_iff n).2 (.inr (.inr ?_)))
  exact BitVec.eq_of_toNat_eq h

/-- The hardened collecting of an unfinished frame publishes it, discards it or keeps it unfinished. -/
theorem pollCollect_kept (hmode : s.cfg.hardened = true) (hstate : s.lst.state = .collectingPayload)
    (hidx : s.lst.idx.toNat < s.lst.n.toNat) (hlength : isStray s.lst.n = false) : PollKept (pollCollect s) := by
  obtain ⟨k, -, -, hk, hle, -, hn, hcollecting, -⟩ := collectBody_spec s.rx s.lst hidx.le
  have hlength' : isStray (collectBody s.rx s.lst).2.n = false := by rwa [hn]
  have hardened {c : StatusCode} (h : s.cfg.hardened = false) : legacyCode c = true := by
    rw [hmode] at h
    cases h
  obtain ⟨t, rfl, ⟨-, h⟩ | ⟨-, -, h⟩ | ⟨hne, -, h⟩⟩ := pollCollect_cases s <;> rw [h]
  · exact publish_kept hlength'
  · exact noEvent_kept rfl hardened
  · have hunfinished : (collectBody s.rx s.lst).2.idx.toNat < (collectBody s.rx s.lst).2.n.toNat := by
      refine lt_of_le_of_ne (by rw [hk, hn]; exact hle) fun heq => hne (BitVec.eq_of_toNat_eq heq)
    exact
      { phase := .inl rfl
        listener := .of_partial rfl rfl hmode (hcollecting.trans hstate) hunfinished hlength'
        event := .of_empty rfl
        code := hardened }

theorem pollStartHardened_kept (h : ListenerConsistent s) (hctl : s.ctl = .peStart) (hmode : s.cfg.hardened = true) :
    PollKept (pollStartHardened s) := by
  cases hstate : s.lst.state with
  | idle => exact absurd hstate (h.starting hctl)
  | collectingPayload =>
    rw [pollStartHardened_collecting hstate]
    exact pollCollect_kept hmode hstate (h.unfinished hstate) (h.length hstate)
  | awaitingLength =>
    rcases readLength_cases s with ⟨-, hread⟩ | ⟨b, rest, -, -, hread⟩ | ⟨b, rest, hrx, hlength, -⟩
    · rw [pollStartHardened_of_readLength_idle hstate (by rw [hread]; rfl), hread]
      exact noEvent_kept rfl fun _ => rfl
    · rw [pollStartHardened_of_readLength_idle hstate (by rw [hread]; rfl), hread]
      exact noEvent_kept rfl fun _ => rfl
    · rw [pollStartHardened_length hstate hrx hlength]
      exact pollCollect_kept hmode rfl (freshFrame_unfinished hlength) hlength

/-- A legacy frame is collected in `PE_COLLECT` while it is unfinished. -/
theorem collecting_kept (h : s.Consistent) (hwrites : PollWrites s t) (hctl : t.ctl = .peCollect)
    (hmode : t.cfg.hardened = false) (hstate : t.lst.state = .collectingPayload) (hidx : t.lst.idx.toNat < t.lst.n.toNat)
    (hlength : isStray t.lst.n = false) (hevt : t.evt = s.evt) (hcode : t.code = s.code) : PollKept t := by
  have hcfg : t.cfg = s.cfg := by
    obtain ⟨_, _, _, _, _, rfl, -⟩ := hwrites
    rfl
  refine ⟨.inr hctl, ⟨fun h => ?_, fun h => ?_, fun _ => ⟨hstate, hmode⟩, fun _ => .inr hctl, fun _ => hidx,
    fun _ => hlength, fun h => ?_⟩, h.event.congr hevt, by rw [hcfg, hcode]; exact h.code⟩
  · rw [hstate] at h; cases h
  · rw [hctl] at h; cases h
  · rw [hctl] at h; cases h

theorem pollStartLegacy_kept (h : s.Consistent) (hmode : s.cfg.hardened = false) : PollKept (pollStartLegacy s) := by
  rcases readLength_cases s with ⟨-, hread⟩ | ⟨b, rest, -, -, hread⟩ | ⟨b, rest, hrx, hlength, -⟩
  · rw [pollStartLegacy_of_idle (by rw [hread]; rfl), hread]
    exact noEvent_kept rfl fun _ => rfl
  · rw [pollStartLegacy_of_idle (by rw [hread]; rfl), hread]
    exact noEvent_kept rfl fun _ => rfl
  · have hread := readLength_length hrx hlength
    have hwrites := pollStartLegacy_pollWrites s
    rw [pollStartLegacy_of_collecting (by rw [hread]; rfl), hread] at hwrites ⊢
    exact collecting_kept h hwrites rfl hmode rfl (freshFrame_unfinished hlength) hlength rfl rfl

theorem pollCollectLegacy_kept (h : s.Consistent) (hctl : s.ctl = .peCollect) : PollKept (pollCollectLegacy s) := by
  obtain ⟨hstate, hmode⟩ := h.listener.collecting hctl
  have hidx := h.listener.unfinished hstate
  have hlength := h.listener.length hstate
  have hwrites := pollCollectLegacy_pollWrites s
  cases hrx : s.rx with
  | nil =>
    rw [pollCollectLegacy_held hrx] at hwrites ⊢
    exact collecting_kept h hwrites hctl hmode hstate hidx hlength rfl rfl
  | cons c rest =>
    by_cases hlast : s.lst.idx + 1 = s.lst.n
    · rw [pollCollectLegacy_last hrx hlast]
      exact publish_kept (t := setLst (storeBodyByte c s.lst) { s with rx := rest }) hlength
    · have hnext : (s.lst.idx + 1).toNat = s.lst.idx.toNat + 1 :=
        toNat_withBody_idx (l := s.lst) (body := [c]) (by simpa using hidx)
      have hidx' : (s.lst.idx + 1).toNat < s.lst.n.toNat :=
        lt_of_le_of_ne (by omega) fun heq => hlast (BitVec.eq_of_toNat_eq heq)
      rw [pollCollectLegacy_more hrx hlast] at hwrites ⊢
      exact collecting_kept h hwrites hctl hmode hstate hidx' hlength rfl rfl

/-- A poll keeps the invariant outside `IDLE`. -/
theorem State.Consistent.pollStep (h : s.Consistent) (hop : s.op.op = 0x8) (hbusy : s.ctl ≠ .idle)
    (hexec : exec .pollEvent s = .next t) : t.Consistent := by
  have becomes {u : State} (hu : exec .pollEvent s = .next u) (hconsistent : u.Consistent) : t.Consistent := by
    rwa [Host.Outcome.next.inj (hexec.symm.trans hu)]
  by_cases hstart : s.ctl = .peStart
  · cases hmode : s.cfg.hardened with
    | true =>
      exact becomes (exec_pollEvent_hardenedStart hstart hmode)
        (h.of_pollKept hop (pollStartHardened_pollWrites s) (pollStartHardened_kept h.listener hstart hmode))
    | false =>
      exact becomes (exec_pollEvent_legacyStart hstart hmode)
        (h.of_pollKept hop (pollStartLegacy_pollWrites s) (pollStartLegacy_kept h hmode))
  · by_cases hcollect : s.ctl = .peCollect
    · exact becomes (exec_pollEvent_collect hcollect)
        (h.of_pollKept hop (pollCollectLegacy_pollWrites s) (pollCollectLegacy_kept h hcollect))
    · exact becomes (exec_pollEvent_foreign hbusy hstart hcollect) (h.congr rfl h.capacity)

/-! ### The text reader -/

theorem ReaderConsistent.of_waiting (ht : t.ctl = .rtWait) (hdisc : t.rt.disc = 0) (hreads : t.rt.reads = 0)
    (hto : t.rt.timedOut = false) (htext : t.textLen = 0) : ReaderConsistent t where
  fresh h := by rw [ht] at h; rcases h with h | h <;> cases h
  waiting _ := ⟨hdisc, hreads, hto, htext⟩
  copying h := by rw [ht] at h; cases h
  echoes h := by rw [ht] at h; cases h
  bounded h := by rw [ht] at h; cases h
  final h := by rw [ht] at h; cases h
  legacyTimeout _ _ := htext

theorem ReaderConsistent.of_fresh (ht : t.ctl = .rtPredrain ∨ t.ctl = .rtTx) (hrt : t.rt = ReaderRegs.zero)
    (htext : t.textLen = 0) : ReaderConsistent t where
  fresh _ := ⟨hrt, htext⟩
  waiting h := by rw [h] at ht; rcases ht with ht | ht <;> cases ht
  copying h := by rw [h] at ht; rcases ht with ht | ht <;> cases ht
  echoes h := by rw [h] at ht; rcases ht with ht | ht <;> cases ht
  bounded h := by rw [h] at ht; rcases ht with ht | ht <;> cases ht
  final h := by rw [h] at ht; rcases ht with ht | ht <;> cases ht
  legacyTimeout _ _ := htext

theorem ReaderConsistent.of_copying (ht : t.ctl = .rtCopy) (hhdr : t.rt.hdr = true) (hto : t.rt.timedOut = false)
    (htext : t.textLen = t.rt.reads) (hechoes : t.rt.disc.toNat < 3 → t.rt.reads = 0)
    (hbounded : t.rt.disc.toNat = 3 → t.rt.reads.toNat < t.op.len8.toNat) : ReaderConsistent t where
  fresh h := by rw [ht] at h; rcases h with h | h <;> cases h
  waiting h := by rw [ht] at h; cases h
  copying _ := ⟨hhdr, hto, htext⟩
  echoes _ := hechoes
  bounded _ := hbounded
  final h := by rw [ht] at h; cases h
  legacyTimeout _ h := by rw [hto] at h; cases h

theorem ReaderConsistent.of_final (ht : t.ctl = .rtFinal) (htext : t.textLen.toNat ≤ t.op.len8.toNat)
    (htimeout : t.cfg.hardened = false → t.rt.timedOut = true → t.textLen = 0) : ReaderConsistent t where
  fresh h := by rw [ht] at h; rcases h with h | h <;> cases h
  waiting h := by rw [ht] at h; cases h
  copying h := by rw [ht] at h; cases h
  echoes h := by rw [ht] at h; cases h
  bounded h := by rw [ht] at h; cases h
  final _ := htext
  legacyTimeout := htimeout

theorem pollingPhase_of_readerPhase {c : Phase} (h : readerPhase c = true) : pollingPhase c = false := by
  cases c with
  | peStart | peCollect => cases h
  | _ => rfl

/-- The registers that no step of a read writes before its completion. -/
def readKeptRegs (s : State) := (s.cfg, s.op, s.evt, s.lst, s.trunc, s.code)

/-- From one phase of a read to another only the reader's part of the invariant changes. -/
theorem State.Consistent.of_reading (h : s.Consistent) (hs : readerPhase s.ctl = true) (ht : readerPhase t.ctl = true)
    (hregs : readKeptRegs t = readKeptRegs s) (hrx : t.rx.length ≤ s.rx.length) (hreader : ReaderConsistent t) :
    t.Consistent := by
  simp only [readKeptRegs, Prod.mk.injEq] at hregs
  obtain ⟨hcfg, hop, hevt, hlst, htrunc, hcode⟩ := hregs
  exact
    { phase := phaseFits_of_readerPhase ht (by rw [hop]; exact op_of_readerPhase hs h.phase)
      listener := .of_idle (by rw [hlst]; exact h.listener.aborted hs) (pollingPhase_of_readerPhase ht)
      event := h.event.congr hevt
      reader := hreader
      capacity := by rw [hcfg]; exact h.capacity_of_le hrx
      code := by rw [hcfg, hcode]; exact h.code
      trunc := by rw [htrunc, hop]; exact h.trunc }

theorem State.Consistent.readTx (h : s.Consistent) (hctl : s.ctl = .rtTx) (m : Byte) (a : Addr) :
    (readTx m a s).Consistent := by
  obtain ⟨hrt, htext⟩ := h.reader.fresh (.inr hctl)
  have hs : readerPhase s.ctl = true := by rw [hctl]; rfl
  obtain ⟨u, rfl, ⟨-, -, hread⟩ | ⟨-, hread⟩⟩ := readTx_cases m a s <;> rw [hread, hrt]
  · refine h.of_reading hs rfl rfl (Nat.le_refl _) (.of_final rfl ?_ fun _ _ => htext)
    show s.textLen.toNat ≤ _
    rw [htext]
    exact Nat.zero_le _
  · exact h.of_reading hs rfl rfl (Nat.le_refl _) (.of_waiting rfl rfl rfl rfl htext)

theorem State.Consistent.readWait (h : s.Consistent) (hctl : s.ctl = .rtWait) (m : Byte) (T : Word) :
    (readWait m T s).Consistent := by
  obtain ⟨hdisc, hreads, hto, htext⟩ := h.reader.waiting hctl
  have hs : readerPhase s.ctl = true := by rw [hctl]; rfl
  rcases readWait_cases m T s with ⟨-, hwait⟩ | ⟨-, hhdr, -, hwait⟩ | ⟨-, -, hthree, hwait⟩ | ⟨-, hwait⟩ <;> rw [hwait]
  · refine h.of_reading hs rfl rfl (Nat.le_refl _) (.of_final rfl ?_ fun _ _ => htext)
    show s.textLen.toNat ≤ _
    rw [htext]
    exact Nat.zero_le _
  · refine h.of_reading hs rfl rfl (Nat.le_refl _) (.of_copying rfl hhdr hto (htext.trans hreads.symm)
      (fun _ => hreads) fun hthree => ?_)
    rw [goto_rt, hdisc] at hthree
    cases hthree
  · obtain ⟨rx, hdr, len, hseek, hrx⟩ := seekHeader_writes hthree
    rw [hseek]
    exact h.of_reading hs hs rfl hrx.length_le (.of_waiting hctl hdisc hreads hto htext)
  · exact h

/-- A read that has text keeps it within M. -/
theorem ReaderConsistent.text_le (h : ReaderConsistent s) (hctl : s.ctl = .rtCopy) :
    s.textLen.toNat ≤ s.op.len8.toNat := by
  obtain ⟨-, -, htext⟩ := h.copying hctl
  rw [htext]
  rcases disc_lt_or_eq_three s.rt.disc with hecho | hdata
  · rw [h.echoes hctl hecho]
    exact Nat.zero_le _
  · exact (h.bounded hctl hdata).le

theorem State.Consistent.readCopy (h : s.Consistent) (hctl : s.ctl = .rtCopy) :
    (readCopy s.op.len8 s.op.arg s).Consistent := by
  obtain ⟨hhdr, hto, htext⟩ := h.reader.copying hctl
  have hs : readerPhase s.ctl = true := by rw [hctl]; rfl
  cases hrx : s.rx with
  | nil =>
    rcases readCopy_cases s.op.len8 s.op.arg s with ⟨c, rest, hcons, -⟩ | ⟨-, hmode, -, hcopy⟩ | ⟨-, hcopy⟩
    · cases hrx.symm.trans hcons
    · rw [hcopy]
      refine h.of_reading hs rfl rfl (Nat.le_refl _) (.of_final rfl (h.reader.text_le hctl) fun hlegacy => ?_)
      rw [readTimeOut, goto_cfg, setRt_cfg, hmode] at hlegacy
      cases hlegacy
    · rwa [hcopy]
  | cons c rest =>
    have hrest : rest.length ≤ s.rx.length := by simp [hrx]
    have hto' {p : Prop} (ht : s.rt.timedOut = true) : p := by rw [hto] at ht; cases ht
    rcases disc_lt_or_eq_three s.rt.disc with hecho | hdata
    · have hreads := h.reader.echoes hctl hecho
      rw [readCopy_echo hrx hecho, hctl]
      split
      next hend =>
        exact h.of_reading hs rfl rfl hrest (.of_final rfl (h.reader.text_le hctl) fun _ => hto')
      next hmore =>
        refine h.of_reading hs rfl rfl hrest (.of_copying rfl hhdr hto htext (fun _ => hreads) fun hthree => ?_)
        have htwo : s.rt.disc.toNat = 2 := (disc_add_one_eq_three _).1 (BitVec.eq_of_toNat_eq hthree)
        show s.rt.reads.toNat < _
        rw [hreads]
        exact Nat.pos_of_ne_zero fun hzero => hmore ⟨htwo, BitVec.eq_of_toNat_eq hzero⟩
    · have hbounded := h.reader.bounded hctl hdata
      by_cases hc : c = 0xFF
      · subst hc
        rw [readCopy_sentinel hrx hdata]
        exact h.of_reading hs rfl rfl hrest (.of_final rfl (h.reader.text_le hctl) fun _ => hto')
      · have hnext : (s.rt.reads + 1).toNat = s.rt.reads.toNat + 1 := by
          have := s.op.len8.isLt
          rw [BitVec.toNat_add]
          simp
          omega
        have htextNext : s.textLen + 1 = s.rt.reads + 1 := congrArg (· + 1) htext
        rw [readCopy_data hrx hdata hc, hctl]
        split
        next hlast =>
          refine h.of_reading hs rfl rfl hrest (.of_final rfl ?_ fun _ => hto')
          show (s.textLen + 1).toNat ≤ _
          rw [htextNext, hlast]
        next hmore =>
          refine h.of_reading hs rfl rfl hrest (.of_copying rfl hhdr hto htextNext (fun hecho => ?_) fun _ => ?_)
          · exact absurd hdata (Nat.ne_of_lt hecho)
          · exact lt_of_le_of_ne (hnext.trans_le hbounded) fun heq => hmore (BitVec.eq_of_toNat_eq heq)

theorem legacyCode_readStatus (s : State) (hmode : s.cfg.hardened = false) : legacyCode (readStatus s) = true := by
  simp only [readStatus, hmode, Bool.false_and, Bool.false_eq_true, if_false, legacyCode]

/-- A read keeps the invariant outside `IDLE`. -/
theorem State.Consistent.readStep (h : s.Consistent) (hbusy : s.ctl ≠ .idle)
    (hexec : exec (.readText s.op.len8 s.op.addr s.op.arg) s = .next t) : t.Consistent := by
  have becomes {u : State} (hu : exec (.readText s.op.len8 s.op.addr s.op.arg) s = .next u) (hconsistent : u.Consistent) :
      t.Consistent := by
    rwa [Host.Outcome.next.inj (hexec.symm.trans hu)]
  cases hctl : s.ctl with
  | idle => exact absurd hctl hbusy
  | rtPredrain =>
    obtain ⟨hrt, htext⟩ := h.reader.fresh (.inl hctl)
    exact becomes (exec_readText_predrain _ _ _ hctl)
      (h.of_reading (by rw [hctl]; rfl) rfl rfl (Nat.zero_le _) (.of_fresh (.inr rfl) hrt htext))
  | rtTx => exact becomes (exec_readText_tx _ _ _ hctl) (h.readTx hctl _ _)
  | rtWait => exact becomes (exec_readText_wait _ _ _ hctl) (h.readWait hctl _ _)
  | rtCopy => exact becomes (exec_readText_copy hctl) (h.readCopy hctl)
  | rtFinal =>
    exact becomes (exec_readText_final _ _ _ hctl)
      (h.of_unitRegs (by rw [hctl]; rfl) rfl rfl rfl rfl (Nat.zero_le _) (legacyCode_readStatus s) h.trunc)
  | _ => exact becomes (exec_readText_foreign hbusy (by rw [hctl]; rfl)) (h.congr rfl h.capacity)

/-! ### Acceptance (R58 to R60, R86, R104) -/

theorem State.Consistent.acceptPoll (h : s.Consistent) (hidle : s.ctl = .idle) (hop : (latchOf s.staging).op.toNat = 8) :
    (acceptPoll s).Consistent := by
  have hlistener : ListenerConsistent (Machine.acceptPoll s) := by
    rcases acceptPoll_cases s with ⟨-, haccept⟩ | ⟨hpartial, haccept⟩ <;> rw [haccept]
    · exact ⟨fun _ => rfl, fun _ => nofun, nofun, nofun, nofun, nofun, nofun⟩
    · obtain ⟨hstate, hmode⟩ := (h.listener.kept (by rw [hidle]; rfl)).resolve_left hpartial
      exact ⟨fun _ => rfl, fun _ => hpartial, nofun, fun _ => .inl hmode, h.listener.unfinished, h.listener.length, nofun⟩
  rw [acceptPoll_eq] at hlistener ⊢
  exact
    { phase := decide_eq_true hop
      listener := hlistener
      event := h.event.congr rfl
      reader := .of_not_reading rfl h.reader.legacyTimeout
      capacity := h.capacity
      code := h.code
      trunc := nofun }

theorem State.Consistent.acceptRead (h : s.Consistent) (hidle : s.ctl = .idle) (hop : (latchOf s.staging).op.toNat = 9) :
    (acceptRead s).Consistent := by
  have hstate : (if s.lst.state = .collectingPayload then ListenerRegs.zero else s.lst).state = .idle := by
    split
    next => rfl
    next hpartial =>
      exact (h.listener.kept (by rw [hidle]; rfl)).resolve_right fun ⟨hcollecting, _⟩ => hpartial hcollecting
  rw [acceptRead_eq]
  exact
    { phase := decide_eq_true hop
      listener := .of_idle hstate rfl
      event := h.event.congr rfl
      reader := .of_fresh (.inl rfl) rfl rfl
      capacity := h.capacity
      code := h.code
      trunc := nofun }

/-- Every acceptance keeps the invariant. -/
theorem State.Consistent.acceptCommand (h : s.Consistent) (hidle : s.ctl = .idle) :
    (acceptCommand (latchOf s.staging).op s).Consistent := by
  have hpolling : pollingPhase s.ctl = false := by rw [hidle]; rfl
  have hlt := (latchOf s.staging).op.isLt
  have hrange : (1 ≤ (latchOf s.staging).op.toNat ∧ (latchOf s.staging).op.toNat ≤ 7) ∨
      (latchOf s.staging).op.toNat = 8 ∨ (latchOf s.staging).op.toNat = 9 ∨
      ((latchOf s.staging).op.toNat = 10 ∨ (latchOf s.staging).op.toNat = 11) ∨
      ((latchOf s.staging).op.toNat = 0 ∨ 12 ≤ (latchOf s.staging).op.toNat) := by omega
  rcases hrange with hop | hop | hop | hop | hop
  · have hphase : phaseFits .encTx (latchOf s.staging).op = true := by
      simp only [phaseFits, hop, decide_true, Bool.and_self]
    rw [acceptCommand_encoder s hop]
    exact h.of_unitRegs hpolling rfl rfl rfl hphase (Nat.le_refl _) h.code nofun
  · rw [acceptCommand_poll s hop]
    exact h.acceptPoll hidle hop
  · rw [acceptCommand_read s hop]
    exact h.acceptRead hidle hop
  · have hphase : phaseFits .codec (latchOf s.staging).op = true := by
      simpa only [phaseFits, Bool.or_eq_true, decide_eq_true_eq] using hop
    rw [acceptCommand_codec s hop]
    exact h.of_unitRegs hpolling rfl rfl rfl hphase (Nat.le_refl _) h.code nofun
  · rw [acceptCommand_reserved s hop]
    exact h.of_unitRegs hpolling rfl rfl rfl rfl (Nat.le_refl _) (fun _ => rfl) nofun

/-! ### Every move -/

/-- The operation in the latch keeps the invariant outside `IDLE`. -/
theorem State.Consistent.latchedStep (h : s.Consistent) (hbusy : s.ctl ≠ .idle)
    (hexec : exec (latchInstr s.op) s = .next t) : t.Consistent := by
  rcases command_cases (frameCommand_latchInstr s.op) with hencoder | hpoll | ⟨m, a, T, hread⟩ | hcodec | hreserved
  · obtain ⟨u, hu, hmove⟩ := exec_encoder (s := s) hencoder
    obtain rfl : t = u := Host.Outcome.next.inj (hexec.symm.trans hu)
    exact h.encoderMove hencoder (latchInstr_opcode s.op) hbusy hmove
  · rw [hpoll] at hexec
    exact h.pollStep (op_of_latchInstr hpoll) hbusy hexec
  · have hop : s.op.op.toNat = 9 := congrArg BitVec.toNat (op_of_latchInstr hread)
    rw [latchInstr_readText hop] at hexec
    exact h.readStep hbusy hexec
  · exact h.codecStep hcodec hbusy hexec
  · obtain rfl := Host.Outcome.next.inj ((hreserved s).symm.trans hexec)
    rcases reservedOp_cases s with ⟨hidle, -⟩ | ⟨-, hop⟩
    · exact absurd hidle hbusy
    · rw [hop]
      exact h.congr rfl h.capacity

/-- Every move of every agent keeps the invariant. -/
theorem State.Consistent.act {e : Event} (h : s.Consistent) (hact : act e s = .next t) : t.Consistent := by
  have becomes {u : State} (hu : Machine.act e s = .next u) (hconsistent : u.Consistent) : t.Consistent := by
    rwa [Host.Outcome.next.inj (hact.symm.trans hu)]
  rcases act_cases e s with ⟨-, hbusy, hmove⟩ | ⟨-, -, hmove⟩ | ⟨v, rfl, hidle, -⟩ | ⟨v, -, -, hmove⟩ |
    ⟨o, v, -, -, hmove⟩ | ⟨o, -, hmove⟩ | ⟨-, hmove⟩ | ⟨b, -, hmove⟩ | ⟨v, -, hmove⟩ | ⟨-, hmove⟩
  · exact h.latchedStep hbusy ((exec_currentInstr h.phase).symm.trans (hmove.symm.trans hact))
  · exact becomes hmove h
  · exact becomes (act_go_idle v hidle) (h.acceptCommand hidle)
  · exact becomes hmove (h.congr rfl h.capacity)
  · exact becomes hmove (h.congr rfl h.capacity)
  · exact becomes hmove (h.congr rfl h.capacity)
  · exact becomes hmove (resetInput_consistent s h.capacity)
  · exact becomes hmove (h.receive b)
  · exact becomes hmove (h.congr rfl h.capacity)
  · exact becomes hmove h.tick

end

/-- Settles O53: a step is a move from a state whose agenda and moment alone are changed, and every move keeps the invariant. -/
theorem stepKeepsConsistent : Obligations.StepKeepsConsistent := by
  intro s t h hstep
  obtain ⟨e, agenda, moment, hmove⟩ := step_eq_act s
  have hmoved : ({ s with agenda := agenda, moment := moment } : State).Consistent := h.congr rfl h.capacity
  exact hmoved.act (hmove.symm.trans hstep)

/-- Settles O55: both clauses are part of the invariant, which the step keeps. -/
theorem legacyListenerIsIdleBetweenPolls : Obligations.LegacyListenerIsIdleBetweenPolls := by
  intro s t h hstep hlegacy
  have ht := stepKeepsConsistent s t h hstep
  have hcode := ht.code hlegacy
  refine ⟨fun hidle => ?_, ?_, ?_, ?_, ?_⟩
  · refine (ht.listener.kept (by rw [hidle]; rfl)).resolve_right fun ⟨_, hmode⟩ => ?_
    rw [hlegacy] at hmode
    cases hmode
  all_goals
    intro h
    rw [h] at hcode
    cases hcode

/-- Settles O33: the invariant says that a legacy timeout left the text empty. -/
theorem legacyTimeoutIsEmpty : Obligations.LegacyTimeoutIsEmpty := by
  intro m addr T s h hlegacy hctl hto
  refine ⟨_, exec_readText_final m addr T hctl, rfl, ?_, h.reader.legacyTimeout hlegacy hto⟩
  show readStatus s = .ok
  simp only [readStatus, hlegacy, Bool.false_and, Bool.false_eq_true, if_false]

end Sys2Proof.Machine
end

section
/-! SUPPORT. A hardened read past its deadline: the steps it has left, counted down by every Controller step whatever the Link
and the Clock do in between. -/

namespace Sys2Proof.Machine

/-- The phases of a read once its request is sent, and the `IDLE` after them. -/
def awaitsResponse : Phase → Bool
  | .rtWait | .rtCopy | .rtFinal | .idle => true
  | .encTx | .encSyncDrain | .encAllDrain | .peStart | .peCollect | .rtPredrain | .rtTx | .codec => false

/-- The most Controller steps that a read past its deadline still takes: in the copy, an echo, a data byte or the timeout each,
and `RT_FINAL`. -/
def readStepsLeft (s : State) : Nat :=
  match s.ctl with
  | .rtWait => 2
  | .rtCopy => (3 - s.rt.disc.toNat) + (s.op.len8.toNat - s.rt.reads.toNat) + 1
  | .rtFinal => 1
  | .idle | .encTx | .encSyncDrain | .encAllDrain | .peStart | .peCollect | .rtPredrain | .rtTx | .codec => 0

/-- A hardened read past its deadline, or the `IDLE` it ended in. -/
structure LateRead (s : State) : Prop where
  consistent : s.Consistent
  hardened : s.cfg.hardened = true
  phase : awaitsResponse s.ctl = true
  late : s.op.arg.toNat ≤ s.rt.elapsed.toNat

/-- What a move of the Controller, the Link or the Clock does to a late read; `k` counts the steps it takes off. -/
structure ReadGoesOn (k : Nat) (s t : State) : Prop where
  cfg : t.cfg = s.cfg
  op : t.op = s.op
  elapsed : s.rt.elapsed.toNat ≤ t.rt.elapsed.toNat
  phase : awaitsResponse t.ctl = true
  left : readStepsLeft t ≤ readStepsLeft s - k

section
variable {s t : State} {k : Nat}

theorem readStepsLeft_wait (h : s.ctl = .rtWait) : readStepsLeft s = 2 := by
  simp only [readStepsLeft, h]

theorem readStepsLeft_copy (h : s.ctl = .rtCopy) :
    readStepsLeft s = (3 - s.rt.disc.toNat) + (s.op.len8.toNat - s.rt.reads.toNat) + 1 := by
  simp only [readStepsLeft, h]

theorem readStepsLeft_final (h : s.ctl = .rtFinal) : readStepsLeft s = 1 := by
  simp only [readStepsLeft, h]

theorem readStepsLeft_idle (h : s.ctl = .idle) : readStepsLeft s = 0 := by
  simp only [readStepsLeft, h]

theorem readStepsLeft_le (h : awaitsResponse s.ctl = true) : readStepsLeft s ≤ s.op.len8.toNat + 4 := by
  cases hctl : s.ctl with
  | rtWait => rw [readStepsLeft_wait hctl]; omega
  | rtCopy => rw [readStepsLeft_copy hctl]; omega
  | rtFinal => rw [readStepsLeft_final hctl]; omega
  | idle => rw [readStepsLeft_idle hctl]; omega
  | _ => rw [hctl] at h; cases h

theorem LateRead.idle_of_stepsLeft (h : LateRead s) (hleft : readStepsLeft s = 0) : s.ctl = .idle := by
  have hphase := h.phase
  cases hctl : s.ctl with
  | rtWait => rw [readStepsLeft_wait hctl] at hleft; cases hleft
  | rtCopy => rw [readStepsLeft_copy hctl] at hleft; cases hleft
  | rtFinal => rw [readStepsLeft_final hctl] at hleft; cases hleft
  | idle => rfl
  | _ => rw [hctl] at hphase; cases hphase

theorem LateRead.of_act {e : Event} (h : LateRead s) (hact : Machine.act e s = .next t) (hmove : ReadGoesOn k s t) :
    LateRead t where
  consistent := h.consistent.act hact
  hardened := by rw [hmove.cfg, h.hardened]
  phase := hmove.phase
  late := by rw [hmove.op]; exact h.late.trans hmove.elapsed

/-- A step to `RT_FINAL` takes one off, where at least two were left. -/
theorem ReadGoesOn.of_final (ht : t.ctl = .rtFinal) (hcfg : t.cfg = s.cfg) (hop : t.op = s.op)
    (helapsed : t.rt.elapsed = s.rt.elapsed) (hleft : 2 ≤ readStepsLeft s) : ReadGoesOn 1 s t where
  cfg := hcfg
  op := hop
  elapsed := by rw [helapsed]
  phase := by rw [ht]; rfl
  left := by rw [readStepsLeft_final ht]; omega

/-- A byte taken within the copy takes one off, for it is one of the echoes or of the text. -/
theorem ReadGoesOn.of_copy (hs : s.ctl = .rtCopy) (ht : t.ctl = .rtCopy) (hcfg : t.cfg = s.cfg) (hop : t.op = s.op)
    (helapsed : t.rt.elapsed = s.rt.elapsed)
    (htaken : (3 - t.rt.disc.toNat) + (s.op.len8.toNat - t.rt.reads.toNat) <
      (3 - s.rt.disc.toNat) + (s.op.len8.toNat - s.rt.reads.toNat)) : ReadGoesOn 1 s t where
  cfg := hcfg
  op := hop
  elapsed := by rw [helapsed]
  phase := by rw [ht]; rfl
  left := by rw [readStepsLeft_copy hs, readStepsLeft_copy ht, hop]; omega

/-- The copy is left with its last byte, so at least two steps are left in it. -/
theorem State.Consistent.two_le_readStepsLeft (h : s.Consistent) (hctl : s.ctl = .rtCopy) : 2 ≤ readStepsLeft s := by
  have hbounded := h.reader.bounded hctl
  rw [readStepsLeft_copy hctl]
  rcases disc_lt_or_eq_three s.rt.disc with hdisc | hdisc
  · omega
  · have := hbounded hdisc
    omega

/-- A late copy takes a byte, or ends at its deadline. -/
theorem LateRead.readCopy (h : LateRead s) (hctl : s.ctl = .rtCopy) :
    ReadGoesOn 1 s (readCopy s.op.len8 s.op.arg s) := by
  have hleft := h.consistent.two_le_readStepsLeft hctl
  cases hrx : s.rx with
  | nil =>
    rw [readCopy_timeOut hrx h.hardened h.late]
    exact .of_final rfl rfl rfl rfl hleft
  | cons c rest =>
    rcases disc_lt_or_eq_three s.rt.disc with hdisc | hdisc
    · have hnext : (s.rt.disc + 1).toNat = s.rt.disc.toNat + 1 := BitVec.toNat_add_of_lt (by simp; omega)
      rw [readCopy_echo hrx hdisc]
      split
      · exact .of_final rfl rfl rfl rfl hleft
      · exact .of_copy hctl hctl rfl rfl rfl (by simp only [hnext]; omega)
    · have hroom := h.consistent.reader.bounded hctl hdisc
      by_cases hc : c = 0xFF
      · subst hc
        rw [readCopy_sentinel hrx hdisc]
        exact .of_final rfl rfl rfl rfl hleft
      · have hnext : (s.rt.reads + 1).toNat = s.rt.reads.toNat + 1 := BitVec.toNat_add_of_lt (by simp; omega)
        rw [readCopy_data hrx hdisc hc]
        split
        · exact .of_final rfl rfl rfl rfl hleft
        · exact .of_copy hctl hctl rfl rfl rfl (by simp only [hnext]; omega)

/-- Every Controller step takes one off the steps left. -/
theorem LateRead.act_controller (h : LateRead s) : ∃ t, Machine.act .controller s = .next t ∧ ReadGoesOn 1 s t := by
  have hphase := h.phase
  have hread (hreader : readerPhase s.ctl = true) := act_controller_read hreader
    (op_of_readerPhase hreader h.consistent.phase)
  cases hctl : s.ctl with
  | rtWait =>
    have hact := (hread (by rw [hctl]; rfl)).trans (exec_readText_wait s.op.len8 s.op.addr s.op.arg hctl)
    rw [readWait_timeOut h.late] at hact
    exact ⟨_, hact, .of_final rfl rfl rfl rfl (readStepsLeft_wait hctl).ge⟩
  | rtCopy => exact ⟨_, (hread (by rw [hctl]; rfl)).trans (exec_readText_copy hctl), h.readCopy hctl⟩
  | rtFinal =>
    have hact := (hread (by rw [hctl]; rfl)).trans (exec_readText_final s.op.len8 s.op.addr s.op.arg hctl)
    rw [readFinal_eq] at hact
    exact ⟨_, hact, rfl, rfl, Nat.le_refl _, rfl, Nat.zero_le _⟩
  | idle =>
    refine ⟨s, act_controller_of_idle hctl, rfl, rfl, Nat.le_refl _, hphase, ?_⟩
    rw [readStepsLeft_idle hctl]
  | _ => rw [hctl] at hphase; cases hphase

theorem elapsed_le_tick (s : State) : s.rt.elapsed.toNat ≤ (tick s).rt.elapsed.toNat := by
  by_cases h : s.ctl = .rtWait ∨ s.ctl = .rtCopy
  · have := s.rt.elapsed.isLt
    simp only [tick_rt_of_counting h, toNat_satInc]
    omega
  · rw [tick_rt_of_not_counting h]

theorem readStepsLeft_tick (s : State) : readStepsLeft (tick s) = readStepsLeft s := by
  simp only [readStepsLeft]
  rw [tick_rt_eq_elapsed]
  rfl

/-- Link and Clock moves take none off. -/
theorem LateRead.act_linkOrClock {e : Event} (h : LateRead s) (he : e.ofBlockOrLink = true) (hc : e ≠ .controller) :
    ∃ t, Machine.act e s = .next t ∧ ReadGoesOn 0 s t := by
  have hphase := h.phase
  cases e with
  | controller => exact absurd rfl hc
  | host => cases he
  | clock => exact ⟨tick s, rfl, rfl, rfl, elapsed_le_tick s, hphase, (readStepsLeft_tick s).le⟩
  | link a =>
    cases a with
    | verdict v => exact ⟨setVerdict v s, rfl, rfl, rfl, Nat.le_refl _, hphase, Nat.le_refl _⟩
    | receive b =>
      refine ⟨receive b s, rfl, ?_⟩
      rcases receive_cases b s with ⟨-, hreceive⟩ | ⟨-, hreceive⟩ <;> rw [hreceive] <;>
        exact ⟨rfl, rfl, Nat.le_refl _, hphase, Nat.le_refl _⟩

theorem LateRead.act {e : Event} (h : LateRead s) (he : e.ofBlockOrLink = true) :
    ∃ t, Machine.act e s = .next t ∧ ReadGoesOn (controllerCount [e]) s t := by
  by_cases hc : e = .controller
  · subst hc
    exact h.act_controller
  · have hcount : controllerCount [e] = 0 := List.count_eq_zero.2 fun hmem => hc (List.mem_singleton.1 hmem).symm
    rw [hcount]
    exact h.act_linkOrClock he hc

/-- Along any list of such moves the Controller's are counted down. -/
theorem LateRead.runEvents {es : List Event} (h : LateRead s) (hes : ∀ e ∈ es, e.ofBlockOrLink = true) :
    ∃ t, Machine.runEvents es s = .next t ∧ LateRead t ∧ readStepsLeft t ≤ readStepsLeft s - controllerCount es := by
  induction es generalizing s with
  | nil => exact ⟨s, rfl, h, Nat.le_refl _⟩
  | cons e es ih =>
    obtain ⟨he, hes⟩ := List.forall_mem_cons.1 hes
    obtain ⟨u, hact, hmove⟩ := h.act he
    obtain ⟨t, hrun, ht, hleft⟩ := ih (h.of_act hact hmove) hes
    have hleftU := hmove.left
    have hcount : controllerCount (e :: es) = controllerCount [e] + controllerCount es :=
      List.count_append (l₁ := [e])
    refine ⟨t, ?_, ht, by omega⟩
    rw [Machine.runEvents, hact]
    exact hrun

end

/-- Settles O34: at most M + 4 steps are left, and the Controller makes more. -/
theorem hardenedReadIsBounded : Obligations.HardenedReadIsBounded := by
  intro es s hconsistent hmode hctl hlate hes hcount
  have hphase : awaitsResponse s.ctl = true := by
    rcases hctl with hctl | hctl | hctl <;> rw [hctl] <;> rfl
  obtain ⟨t, hrun, ht, hleft⟩ := LateRead.runEvents ⟨hconsistent, hmode, hphase, hlate⟩ hes
  have hstart := readStepsLeft_le hphase
  exact ⟨t, hrun, ht.idle_of_stepsLeft (by omega)⟩

end Sys2Proof.Machine
end
